-- ==== Sys2Proof/Word.lean ====
section
/-! DEFINITION. The word types: the widths the spec gives its data (R4: 8-bit data, 16-bit instructions and address registers). -/

namespace Sys2Proof

/-- A byte: a memory location, a general register, a timer value (R4 `XLEN`, `TLEN`). -/
abbrev Byte := BitVec 8

/-- Sixteen bits: an instruction word, PC, I, a stack entry (R4 `PCLEN`, `ILEN`, `STACK_DEPTH`). -/
abbrev Word := BitVec 16

/-- Four bits: one hex digit of an instruction word (R8, R81). -/
abbrev Nibble := BitVec 4

/-- A byte as the low half of a 16-bit value (`zext_16` of R10). -/
def zext16 (b : Byte) : Word := b.zeroExtend 16

end Sys2Proof
end

