-- ==== Sys2Proof/Syntax.lean ====
section
/-! DEFINITION. The instructions: one constructor per row of the opcode map (R86), with the operands its format gives it (R82, R83). -/

namespace Sys2Proof

/-- The number of a general register, V0 to VF (R20, R21). -/
abbrev Reg := Fin 16

/-- VF, the register that doubles as the flag (R22). -/
abbrev VF : Reg := 15

/-- A 12-bit address operand `nnn` (R83). -/
abbrev Addr := BitVec 12

/-- The 35 instruction patterns of R86, in the order of its rows. Constructors carry exactly the fields of the encoding, the
ignored y of 8xy6 and 8xyE included (R88), so that no bit of a word is dropped. -/
inductive Instr where
  /-- 00E0 (R181) -/
  | cls
  /-- 00EE (R130) -/
  | ret
  /-- 0nnn (R131) -/
  | sys (nnn : Addr)
  /-- 1nnn (R132) -/
  | jp (nnn : Addr)
  /-- 2nnn (R133) -/
  | call (nnn : Addr)
  /-- 3xkk (R140) -/
  | seImm (x : Reg) (kk : Byte)
  /-- 4xkk (R141) -/
  | sneImm (x : Reg) (kk : Byte)
  /-- 5xy0 (R142) -/
  | seReg (x y : Reg)
  /-- 6xkk (R150) -/
  | ldImm (x : Reg) (kk : Byte)
  /-- 7xkk (R151) -/
  | addImm (x : Reg) (kk : Byte)
  /-- 8xy0 (R152) -/
  | ldReg (x y : Reg)
  /-- 8xy1 (R153) -/
  | orReg (x y : Reg)
  /-- 8xy2 (R154) -/
  | andReg (x y : Reg)
  /-- 8xy3 (R155) -/
  | xorReg (x y : Reg)
  /-- 8xy4 (R156) -/
  | addReg (x y : Reg)
  /-- 8xy5 (R157) -/
  | sub (x y : Reg)
  /-- 8xy6 (R158) -/
  | shr (x y : Reg)
  /-- 8xy7 (R159) -/
  | subn (x y : Reg)
  /-- 8xyE (R160) -/
  | shl (x y : Reg)
  /-- 9xy0 (R143) -/
  | sneReg (x y : Reg)
  /-- Annn (R170) -/
  | ldI (nnn : Addr)
  /-- Bnnn (R134) -/
  | jpV0 (nnn : Addr)
  /-- Cxkk (R186) -/
  | rnd (x : Reg) (kk : Byte)
  /-- Dxyn (R182) -/
  | drw (x y : Reg) (n : Nibble)
  /-- Ex9E (R191) -/
  | skp (x : Reg)
  /-- ExA1 (R192) -/
  | sknp (x : Reg)
  /-- Fx07 (R200) -/
  | ldVxDT (x : Reg)
  /-- Fx0A (R193) -/
  | ldVxK (x : Reg)
  /-- Fx15 (R201) -/
  | ldDTVx (x : Reg)
  /-- Fx18 (R202) -/
  | ldSTVx (x : Reg)
  /-- Fx1E (R171) -/
  | addIVx (x : Reg)
  /-- Fx29 (R172) -/
  | ldFVx (x : Reg)
  /-- Fx33 (R173) -/
  | ldBVx (x : Reg)
  /-- Fx55 (R174) -/
  | ldMemVx (x : Reg)
  /-- Fx65 (R175) -/
  | ldVxMem (x : Reg)
  deriving DecidableEq, Repr

end Sys2Proof
end

