-- ==== Sys2Proof/Decode.lean ====
section
/-! DEFINITION. The decoder (R80 to R87): two bytes to four nibbles, always; four nibbles to an instruction or to none. Then the
encoder, written from the formats of R82, and the opcode map of R86 as a table of rows. -/

namespace Sys2Proof

/-- "the 4 nibbles" of an instruction word (R81). -/
structure Nibbles where
  o1 : Nibble
  o2 : Nibble
  o3 : Nibble
  o4 : Nibble
  deriving DecidableEq, Repr

namespace Nibbles

/-- The split of the two bytes (R81): byte0 into o1 and o2, byte1 into o3 and o4. -/
def ofBytes (b0 b1 : Byte) : Nibbles :=
  ⟨b0.extractLsb' 4 4, b0.extractLsb' 0 4, b1.extractLsb' 4 4, b1.extractLsb' 0 4⟩

/-- The high byte of the word, at the lower address (R52, R82). -/
def byte0 (n : Nibbles) : Byte := n.o1 ++ n.o2

/-- The low byte of the word, at the higher address (R52, R82). -/
def byte1 (n : Nibbles) : Byte := n.o3 ++ n.o4

/-- The word the nibbles recombine to (R81). -/
def word (n : Nibbles) : Word := n.byte0 ++ n.byte1

/-- Operand assembly (R83): `nnn = o2*256 + o3*16 + o4`. -/
def nnn (n : Nibbles) : Addr := n.o2 ++ n.o3 ++ n.o4

/-- Operand assembly (R83): `kk = o3*16 + o4`. -/
def kk (n : Nibbles) : Byte := n.o3 ++ n.o4

/-- Operand assembly (R83): `x = o2`. -/
def x (n : Nibbles) : Reg := n.o2.toFin

/-- Operand assembly (R83): `y = o3`. -/
def y (n : Nibbles) : Reg := n.o3.toFin

end Nibbles

/-- Group 0 (R84): the two fixed words first, every other word is 0nnn. -/
def dispatch0 (n : Nibbles) : Instr :=
  if n.nnn = 0x0E0 then .cls else if n.nnn = 0x0EE then .ret else .sys n.nnn

/-- Group 8 (R85): by o4. -/
def dispatch8 (n : Nibbles) : Option Instr :=
  match n.o4.toNat with
  | 0x0 => some (.ldReg n.x n.y)
  | 0x1 => some (.orReg n.x n.y)
  | 0x2 => some (.andReg n.x n.y)
  | 0x3 => some (.xorReg n.x n.y)
  | 0x4 => some (.addReg n.x n.y)
  | 0x5 => some (.sub n.x n.y)
  | 0x6 => some (.shr n.x n.y)
  | 0x7 => some (.subn n.x n.y)
  | 0xE => some (.shl n.x n.y)
  | _ => none

/-- Group E (R85): by the low byte. -/
def dispatchE (n : Nibbles) : Option Instr :=
  match n.kk.toNat with
  | 0x9E => some (.skp n.x)
  | 0xA1 => some (.sknp n.x)
  | _ => none

/-- Group F (R85): by the low byte. -/
def dispatchF (n : Nibbles) : Option Instr :=
  match n.kk.toNat with
  | 0x07 => some (.ldVxDT n.x)
  | 0x0A => some (.ldVxK n.x)
  | 0x15 => some (.ldDTVx n.x)
  | 0x18 => some (.ldSTVx n.x)
  | 0x1E => some (.addIVx n.x)
  | 0x29 => some (.ldFVx n.x)
  | 0x33 => some (.ldBVx n.x)
  | 0x55 => some (.ldMemVx n.x)
  | 0x65 => some (.ldVxMem n.x)
  | _ => none

/-- Dispatch on o1, then inside the group (R84, R85). `none` is an unassigned encoding (R87). -/
def dispatch (n : Nibbles) : Option Instr :=
  match n.o1.toNat with
  | 0x0 => some (dispatch0 n)
  | 0x1 => some (.jp n.nnn)
  | 0x2 => some (.call n.nnn)
  | 0x3 => some (.seImm n.x n.kk)
  | 0x4 => some (.sneImm n.x n.kk)
  | 0x5 => if n.o4 = 0 then some (.seReg n.x n.y) else none
  | 0x6 => some (.ldImm n.x n.kk)
  | 0x7 => some (.addImm n.x n.kk)
  | 0x8 => dispatch8 n
  | 0x9 => if n.o4 = 0 then some (.sneReg n.x n.y) else none
  | 0xA => some (.ldI n.nnn)
  | 0xB => some (.jpV0 n.nnn)
  | 0xC => some (.rnd n.x n.kk)
  | 0xD => some (.drw n.x n.y n.o4)
  | 0xE => dispatchE n
  | _ => dispatchF n

/-- Why a list of bytes is no instruction. -/
inductive DecodeError where
  /-- Fewer than two bytes (R80: every instruction is exactly two bytes). -/
  | truncated
  /-- An unassigned encoding (R87), with its word. -/
  | illegal (word : Word)
  deriving DecidableEq, Repr

/-- The instruction at the head of a list of bytes, high byte first (R52, R80), and the bytes after it. -/
def decode : List Byte → Except DecodeError (Instr × List Byte)
  | b0 :: b1 :: rest =>
    match dispatch (.ofBytes b0 b1) with
    | some i => .ok (i, rest)
    | none => .error (.illegal (b0 ++ b1))
  | _ => .error .truncated

/-- The instruction a word stands for: its high byte first (R52). -/
def decodeWord (w : Word) : Option Instr :=
  dispatch (.ofBytes (w.extractLsb' 8 8) (w.extractLsb' 0 8))

/-! The encoder, format by format (R82). -/

/-- Format NNN. -/
def fmtNNN (o1 : Nibble) (nnn : Addr) : Nibbles :=
  ⟨o1, nnn.extractLsb' 8 4, nnn.extractLsb' 4 4, nnn.extractLsb' 0 4⟩

/-- Format XKK; format XLL where the low byte is fixed. -/
def fmtXKK (o1 : Nibble) (x : Reg) (kk : Byte) : Nibbles :=
  ⟨o1, .ofFin x, kk.extractLsb' 4 4, kk.extractLsb' 0 4⟩

/-- Format XYN; format XY where o4 is fixed. -/
def fmtXYN (o1 : Nibble) (x y : Reg) (o4 : Nibble) : Nibbles :=
  ⟨o1, .ofFin x, .ofFin y, o4⟩

/-- The nibbles of an instruction's word (R82, R86). -/
def Instr.nibbles : Instr → Nibbles
  | .cls => ⟨0x0, 0x0, 0xE, 0x0⟩
  | .ret => ⟨0x0, 0x0, 0xE, 0xE⟩
  | .sys nnn => fmtNNN 0x0 nnn
  | .jp nnn => fmtNNN 0x1 nnn
  | .call nnn => fmtNNN 0x2 nnn
  | .seImm x kk => fmtXKK 0x3 x kk
  | .sneImm x kk => fmtXKK 0x4 x kk
  | .seReg x y => fmtXYN 0x5 x y 0x0
  | .ldImm x kk => fmtXKK 0x6 x kk
  | .addImm x kk => fmtXKK 0x7 x kk
  | .ldReg x y => fmtXYN 0x8 x y 0x0
  | .orReg x y => fmtXYN 0x8 x y 0x1
  | .andReg x y => fmtXYN 0x8 x y 0x2
  | .xorReg x y => fmtXYN 0x8 x y 0x3
  | .addReg x y => fmtXYN 0x8 x y 0x4
  | .sub x y => fmtXYN 0x8 x y 0x5
  | .shr x y => fmtXYN 0x8 x y 0x6
  | .subn x y => fmtXYN 0x8 x y 0x7
  | .shl x y => fmtXYN 0x8 x y 0xE
  | .sneReg x y => fmtXYN 0x9 x y 0x0
  | .ldI nnn => fmtNNN 0xA nnn
  | .jpV0 nnn => fmtNNN 0xB nnn
  | .rnd x kk => fmtXKK 0xC x kk
  | .drw x y n => fmtXYN 0xD x y n
  | .skp x => fmtXKK 0xE x 0x9E
  | .sknp x => fmtXKK 0xE x 0xA1
  | .ldVxDT x => fmtXKK 0xF x 0x07
  | .ldVxK x => fmtXKK 0xF x 0x0A
  | .ldDTVx x => fmtXKK 0xF x 0x15
  | .ldSTVx x => fmtXKK 0xF x 0x18
  | .addIVx x => fmtXKK 0xF x 0x1E
  | .ldFVx x => fmtXKK 0xF x 0x29
  | .ldBVx x => fmtXKK 0xF x 0x33
  | .ldMemVx x => fmtXKK 0xF x 0x55
  | .ldVxMem x => fmtXKK 0xF x 0x65

/-- The word of an instruction (R82). -/
def encode (i : Instr) : Word := i.nibbles.word

/-- The two bytes of an instruction as memory holds them, high byte at the lower address (R52). -/
def encodeBytes (i : Instr) : List Byte := [i.nibbles.byte0, i.nibbles.byte1]

/-- The host's question: the instruction this decoder reads from a table word of `nbits` bits (bit 0 the least significant of the
word; the bits above `nbits` are 0). -/
def decodeTableWord (nbits w : Nat) : Option Instr :=
  let v := w % 2 ^ nbits
  match decode [BitVec.ofNat 8 (v / 256), BitVec.ofNat 8 v] with
  | .ok (i, _) => some i
  | .error _ => none

/-! The opcode map (R86). -/

/-- One row of R86: a word `w` is the instruction when `w AND mask = value`, the first row that fits deciding (R84). -/
structure Row where
  number : Nat
  mask : Word
  value : Word
  deriving DecidableEq, Repr

/-- Rows 1 to 19 of R86. -/
def opcodeRowsLow : List Row :=
  [⟨1, 0xFFFF, 0x00E0⟩, ⟨2, 0xFFFF, 0x00EE⟩, ⟨3, 0xF000, 0x0000⟩, ⟨4, 0xF000, 0x1000⟩, ⟨5, 0xF000, 0x2000⟩,
   ⟨6, 0xF000, 0x3000⟩, ⟨7, 0xF000, 0x4000⟩, ⟨8, 0xF00F, 0x5000⟩, ⟨9, 0xF000, 0x6000⟩, ⟨10, 0xF000, 0x7000⟩,
   ⟨11, 0xF00F, 0x8000⟩, ⟨12, 0xF00F, 0x8001⟩, ⟨13, 0xF00F, 0x8002⟩, ⟨14, 0xF00F, 0x8003⟩, ⟨15, 0xF00F, 0x8004⟩,
   ⟨16, 0xF00F, 0x8005⟩, ⟨17, 0xF00F, 0x8006⟩, ⟨18, 0xF00F, 0x8007⟩, ⟨19, 0xF00F, 0x800E⟩]

/-- Rows 20 to 35 of R86. -/
def opcodeRowsHigh : List Row :=
  [⟨20, 0xF00F, 0x9000⟩, ⟨21, 0xF000, 0xA000⟩, ⟨22, 0xF000, 0xB000⟩, ⟨23, 0xF000, 0xC000⟩, ⟨24, 0xF000, 0xD000⟩,
   ⟨25, 0xF0FF, 0xE09E⟩, ⟨26, 0xF0FF, 0xE0A1⟩, ⟨27, 0xF0FF, 0xF007⟩, ⟨28, 0xF0FF, 0xF00A⟩, ⟨29, 0xF0FF, 0xF015⟩,
   ⟨30, 0xF0FF, 0xF018⟩, ⟨31, 0xF0FF, 0xF01E⟩, ⟨32, 0xF0FF, 0xF029⟩, ⟨33, 0xF0FF, 0xF033⟩, ⟨34, 0xF0FF, 0xF055⟩,
   ⟨35, 0xF0FF, 0xF065⟩]

/-- The 35 rows, in the order of precedence. -/
def opcodeRows : List Row := opcodeRowsLow ++ opcodeRowsHigh

/-- Whether a word fits a row. -/
def Row.fits (r : Row) (w : Word) : Bool := w &&& r.mask == r.value

/-- The number of the row of R86 an instruction stands on. -/
def Instr.row : Instr → Nat
  | .cls => 1
  | .ret => 2
  | .sys _ => 3
  | .jp _ => 4
  | .call _ => 5
  | .seImm _ _ => 6
  | .sneImm _ _ => 7
  | .seReg _ _ => 8
  | .ldImm _ _ => 9
  | .addImm _ _ => 10
  | .ldReg _ _ => 11
  | .orReg _ _ => 12
  | .andReg _ _ => 13
  | .xorReg _ _ => 14
  | .addReg _ _ => 15
  | .sub _ _ => 16
  | .shr _ _ => 17
  | .subn _ _ => 18
  | .shl _ _ => 19
  | .sneReg _ _ => 20
  | .ldI _ => 21
  | .jpV0 _ => 22
  | .rnd _ _ => 23
  | .drw _ _ _ => 24
  | .skp _ => 25
  | .sknp _ => 26
  | .ldVxDT _ => 27
  | .ldVxK _ => 28
  | .ldDTVx _ => 29
  | .ldSTVx _ => 30
  | .addIVx _ => 31
  | .ldFVx _ => 32
  | .ldBVx _ => 33
  | .ldMemVx _ => 34
  | .ldVxMem _ => 35

end Sys2Proof
end

