-- ==== Sys2Proof/Machine/Flags.lean ====
section
/-! DEFINITION. The flag computations: what the six flag-writing instructions put into VF (R22), each 0 or 1. -/

namespace Sys2Proof.Machine

/-- A flag as the byte VF receives: "each writes 0 or 1, never another value" (R22). -/
def flagByte (c : Bool) : Byte := if c then 1 else 0

/-- Carry of 8xy4: "VF = 1 if sum > 255 else 0" (R156). -/
def carryFlag (a b : Byte) : Byte := flagByte (decide (a.toNat + b.toNat > 255))

/-- The comparison flag of 8xy5 and 8xy7: strictly greater, unsigned (R157, R159, R162). -/
def greaterFlag (a b : Byte) : Byte := flagByte (decide (a.toNat > b.toNat))

/-- The bit 8xy6 shifts out: "VF = Vx & 1" (R158). -/
def lowBitFlag (a : Byte) : Byte := a &&& 1

/-- The bit 8xyE shifts out: "VF = (Vx >> 7) & 1" (R160). -/
def highBitFlag (a : Byte) : Byte := (a >>> 7) &&& 1

/-- The collision flag of Dxyn (R182). -/
def collisionFlag (c : Bool) : Byte := flagByte c

end Sys2Proof.Machine
end

