-- ==== Sys2Proof/Config.lean ====
section
/-! DEFINITION. What is fixed for the machine (R4) and the free values: constants with no body, so that nothing can be proved of
the value a draw has. -/

namespace Sys2Proof

/-- A glyph: five bytes, one per pixel row from top to bottom (R263). -/
abbrev Glyph := Vector Byte 5

/-- A font table: sixteen glyphs, the hex digits 0 to F (R263, R4 `NGLYPH`, `GLYPH_SIZE`). -/
abbrev Font := Vector Glyph 16

namespace Config

/-- `MEM_SIZE` (R4, R50): addresses 0x000 to 0xFFF. -/
def memSize : Nat := 4096

/-- `PROG_BASE` (R4): where the ROM is loaded and where PC starts. -/
def progBase : Nat := 0x200

/-- The longest ROM, the space from 0x200 to 0xFFF (R264). -/
def maxRom : Nat := 3584

/-- The default `FONT` (R263, D13). PRESUMED: the spec takes these bytes from general knowledge, not from its source; `FONT` is an
argument of `State.init` (log entry 6). -/
def font : Font :=
  #v[#v[0xF0, 0x90, 0x90, 0x90, 0xF0],
     #v[0x20, 0x60, 0x20, 0x20, 0x70],
     #v[0xF0, 0x10, 0xF0, 0x80, 0xF0],
     #v[0xF0, 0x10, 0xF0, 0x10, 0xF0],
     #v[0x90, 0x90, 0xF0, 0x10, 0x10],
     #v[0xF0, 0x80, 0xF0, 0x10, 0xF0],
     #v[0xF0, 0x80, 0xF0, 0x90, 0xF0],
     #v[0xF0, 0x10, 0x20, 0x40, 0x40],
     #v[0xF0, 0x90, 0xF0, 0x90, 0xF0],
     #v[0xF0, 0x90, 0xF0, 0x10, 0xF0],
     #v[0xF0, 0x90, 0xF0, 0x90, 0x90],
     #v[0xE0, 0x90, 0xE0, 0x90, 0xE0],
     #v[0xF0, 0x80, 0x80, 0x80, 0xF0],
     #v[0xE0, 0x90, 0x90, 0x90, 0xE0],
     #v[0xF0, 0x80, 0xF0, 0x80, 0xF0],
     #v[0xF0, 0x80, 0xF0, 0x80, 0x80]]

/-- The random byte of the n-th draw (R187, U9: "any value 0..255", under no law). Free: log entry 3. -/
opaque freeRandom : Nat → Byte

/-- Which of several pressed keys Fx0A takes at the n-th draw, as an index reduced modulo their number (R196, U7). Free: log
entry 4. -/
opaque freeKeyIndex : Nat → Nat

/-- The collision reply of an external Display at the n-th draw (R180, U13). Free: log entry 5. -/
opaque freeCollision : Nat → Bool

end Config
end Sys2Proof
end

