-- ==== Sys2Proof/Machine/Schedule.lean ====
section
/-! DEFINITION. The turns the agents take (R5, R215, R239), and the rounds of turns that are drawn when no turn is given: any turns, but
in every round each of the three agents has one, so that every fair interleaving is a sequence of rounds and every sequence of rounds is
fair (R236, R239; log entry 1). -/

namespace Sys2Proof.Machine

/-- Where `INIT` takes the ROM from (R218, R264). -/
inductive RomSource where
  | bytes (rom : List Byte)
  | readFailure
  deriving DecidableEq, Repr

/-- One step of one agent (R5, R215, R239). -/
inductive Turn where
  /-- `CYCLE`: the CPU performs one cycle (R110, R120). -/
  | cpu
  /-- `TICK_DT` (R232). -/
  | tickDT
  /-- `TICK_ST` (R232). -/
  | tickST
  /-- The environment sets the key lines (R190). -/
  | keys (level : Word)
  /-- The environment supplies a random byte (R187). -/
  | rnd (sample : Byte)
  /-- An external Display supplies a reply (R180). -/
  | reply (collision : Bool)
  /-- The environment asserts `CANCEL` (R112). -/
  | cancel
  /-- `INIT(ROM)` with a font table (R260, R263). -/
  | init (font : Font) (rom : RomSource)
  deriving DecidableEq, Repr

end Sys2Proof.Machine

namespace Sys2Proof.Config

/-- The turns of the n-th round, in their order: the schedule of R239 with the environment's input changes, "any value: every
interleaving" (U11). Free: log entry 1. -/
opaque freeRound : Nat → List Machine.Turn

end Sys2Proof.Config

namespace Sys2Proof.Machine

/-- `INIT` is the launch of a run and no event in it (R260: "constructed once per run"); a round holds none. -/
def Turn.isInit : Turn → Bool
  | .init _ _ => true
  | .cpu => false
  | .tickDT => false
  | .tickST => false
  | .keys _ => false
  | .rnd _ => false
  | .reply _ => false
  | .cancel => false

/-- The three agents that step for ever (R5, R236). -/
def agentTurns : List Turn := [.cpu, .tickDT, .tickST]

/-- A round: the turns drawn, and after them a turn for each agent that has none there ("every agent that can step eventually does",
R239). -/
def fairRound (drawn : List Turn) : List Turn :=
  drawn.filter (fun a => !a.isInit) ++ agentTurns.filter (fun a => !drawn.contains a)

end Sys2Proof.Machine
end

