-- ==== Sys2Proof/Machine/State.lean ====
section
/-! DEFINITION. The state of the machine as plain data: every register, memory, the run state and fault record (R20 to R35), the
reference copies of the collaborators and the event list (R37, R38), the inputs (R39), and the model's own three fields; the reasons a
step can stop; the state after reset (R261). -/

namespace Sys2Proof.Machine

/-- Memory as the list of the bytes that differ from the reset contents, addresses strictly rising (`Memory.wf`). -/
abbrev Memory := List Host.Cell

/-- `RUN` (R34). -/
inductive RunState where
  /-- RUNNING: the next cycle may start. -/
  | running
  /-- WAITKEY: the Fx0A at PC found no key pressed when it last looked. -/
  | waitKey
  /-- HALTED_END: natural termination (R114). -/
  | haltedEnd
  /-- CANCELLED: external cancellation (R112). -/
  | cancelled
  /-- FAULTED: a fault was raised (R211). -/
  | faulted
  deriving DecidableEq, Repr

/-- The six faults (R210). -/
inductive FaultCode where
  | illegalInstruction
  | misalignedFetch
  | stackOverflow
  | stackUnderflow
  | memoryBounds
  | keyIndexOutOfRange
  deriving DecidableEq, Repr

/-- The codes of R210. -/
def FaultCode.number : FaultCode → Nat
  | .illegalInstruction => 1
  | .misalignedFetch => 2
  | .stackOverflow => 3
  | .stackUnderflow => 4
  | .memoryBounds => 5
  | .keyIndexOutOfRange => 6

/-- `FAULT` (R35): the fault code, the PC of the faulting instruction, and the information word. -/
structure FaultRecord where
  code : FaultCode
  pc : Word
  info : Word
  deriving DecidableEq, Repr

/-- An output event (R38). -/
inductive Event where
  | displayClear
  | displayDraw (x y : Byte) (sprite : List Byte) (collision : Bool)
  | buzzerStart
  | buzzerStop
  deriving DecidableEq, Repr

/-- What a timer tells its handler when its value crosses between zero and nonzero (R233, R235). -/
inductive Notification where
  | start
  | stop
  deriving DecidableEq, Repr

/-- The pixel grid `G[row][col]`, 32 rows of 64 pixels, `true` = lit (R183). -/
abbrev Grid := Vector (Vector Bool 64) 32

/-- Every pixel 0 (R185). -/
def Grid.blank : Grid := Vector.replicate 32 (Vector.replicate 64 false)

/-- The Display the core is connected to (log entry 5). -/
inductive Display where
  /-- The reference Display of R183 to R185. -/
  | reference (grid : Grid)
  /-- The null Display of R240: collision = 0 always. -/
  | null
  /-- A Display outside the model (R180, U13): the replies it will give, in order; a free value when the list is used up. -/
  | external (replies : List Bool)
  deriving DecidableEq, Repr

/-- The machine's state. -/
structure State where
  /-- V0..VF (R20). -/
  v : Vector Byte 16
  /-- PC (R23). -/
  pc : Word
  /-- I (R26). -/
  i : Word
  /-- SP (R27): the number of live entries of `stack`. -/
  sp : Byte
  /-- STACK[0..15] (R28). -/
  stack : Vector Word 16
  /-- DT (R30). -/
  dt : Byte
  /-- ST (R31). -/
  st : Byte
  /-- MEM (R32). -/
  mem : Memory
  /-- RUN (R34). -/
  run : RunState
  /-- FAULT (R35). -/
  fault : Option FaultRecord
  /-- The Display's side of the contract (R37). -/
  display : Display
  /-- The Buzzer's on (`true`) or off condition (R37). -/
  buzzer : Bool
  /-- The output events, oldest first (R38). -/
  events : List Event
  /-- `KEYS[15:0]`: bit k is 1 while key k is pressed (R190). -/
  keys : Word
  /-- The random bytes supplied and not yet sampled, first the next one (R187). -/
  rndIn : List Byte
  /-- `CANCEL`, sticky (R112). -/
  cancel : Bool
  /-- The model's own: how many free values have been taken. -/
  draws : Nat
  /-- The model's own: the turns still to come (R239); when there is none, a round is drawn. -/
  agenda : List Turn
  /-- The model's own: how many rounds have been drawn. -/
  rounds : Nat
  deriving DecidableEq, Repr

/-- Why a step can stop with a fault. The six faults of R210 are no such stop: taking one is a next state (`State.raise`). -/
inductive Fault where
  /-- Raised by 2nnn and 00EE where SP > 16, so that the entry they name is none of STACK[0..15] (R28). No run reaches such a
  state (R27). Safe: the spec gives no effect there (log entry 10). -/
  | noStackEntry (sp : Byte)
  deriving DecidableEq, Repr

/-- Why `INIT` fails (R218). -/
inductive BootError where
  /-- A ROM longer than 3584 bytes (R264). -/
  | romTooLong
  /-- The ROM source failed while being read (R218). -/
  | romReadFailure
  deriving DecidableEq, Repr

/-- Why a step can be refused. -/
inductive Refusal where
  /-- Raised by an arm of `exec` for an instruction that has no meaning yet. Safe. -/
  | notModelled (mnemonic : String)
  /-- Raised by the turn `init`: "the state of the machine is then unspecified and must not be run" (R218). Safe (log entry 15). -/
  | bootError (e : BootError)
  deriving DecidableEq, Repr

/-- What a step or a meaning answers. -/
abbrev Result := Host.Outcome State Fault Refusal

/-- The machine right after reset (R260, R261): `INIT` with the default font and the empty ROM. The inputs and the model's own
fields, for which the spec gives no value, are as log entries 1, 2 and 3 say. -/
def State.reset : State where
  v := Vector.replicate 16 0
  pc := 0x0200
  i := 0
  sp := 0
  stack := Vector.replicate 16 0
  dt := 0
  st := 0
  mem := []
  run := .running
  fault := none
  display := .reference Grid.blank
  buzzer := false
  events := []
  keys := 0
  rndIn := []
  cancel := false
  draws := 0
  agenda := []
  rounds := 0

end Sys2Proof.Machine
end

