-- ==== Sys2Proof/Machine/Ops.lean ====
section
/-! DEFINITION. The operations the meanings share: memory, registers, PC, the stack, taking a fault, events, the timer block,
sampling the inputs. -/

namespace Sys2Proof.Machine

/-! ### Memory (R50 to R64) -/

/-- Byte `a` of a font table loaded at address 0: glyph i at [5*i, 5*i+5) (R59, R262). -/
def fontByte (f : Font) (a : Nat) : Byte :=
  if h : a < 80 then (f[a / 5]'(by omega))[a % 5]'(by omega) else 0

/-- What an unlisted address reads as: the reset contents with the default font and no ROM (R262; log entry 8). -/
def Memory.background (a : Nat) : Byte := fontByte Config.font a

/-- The byte at an address: "a read returns the last byte written there" (R58). -/
def Memory.read : Memory → Nat → Byte
  | [], a => Memory.background a
  | (a', b) :: m, a => if a = a' then b else Memory.read m a

/-- A byte listed at its place in the order of the addresses, instead of the one listed for that address. -/
def Memory.insert : Memory → Nat → Byte → Memory
  | [], a, b => [(a, b)]
  | (a', b') :: m, a, b =>
    if a < a' then (a, b) :: (a', b') :: m
    else if a = a' then (a, b) :: m
    else (a', b') :: Memory.insert m a b

/-- A store of one byte, in the canonical form: a byte that equals the reset contents is not listed. -/
def Memory.write (m : Memory) (a : Nat) (b : Byte) : Memory :=
  if b = Memory.background a then m.filter (fun c => c.1 != a) else m.insert a b

/-- Stores of consecutive bytes at ascending addresses (R57). -/
def Memory.writeBytes : Memory → Nat → List Byte → Memory
  | m, _, [] => m
  | m, a, b :: bs => Memory.writeBytes (m.write a b) (a + 1) bs

/-- Reads of consecutive bytes at ascending addresses (R57). -/
def Memory.readBytes (m : Memory) (a : Nat) : Nat → List Byte
  | 0 => []
  | n + 1 => m.read a :: Memory.readBytes m (a + 1) n

/-- The canonical form: addresses strictly rising, inside memory, and no byte listed that equals the reset contents. -/
abbrev Memory.wf (m : Memory) : Prop :=
  m.Pairwise (fun c d => c.1 < d.1) ∧ ∀ c ∈ m, c.1 < Config.memSize ∧ c.2 ≠ Memory.background c.1

/-! ### Registers, PC and I (R20 to R26) -/

/-- `V[r]`. -/
def State.reg (s : State) (r : Reg) : Byte := s.v[r]

/-- `V[r] <- b`. -/
def State.setReg (s : State) (r : Reg) (b : Byte) : State := { s with v := s.v.set r b }

/-- The whole register file replaced, for the instruction that loads a range of it (R175). -/
def State.setRegs (s : State) (v : Vector Byte 16) : State := { s with v := v }

/-- `I <- w`. -/
def State.setIndex (s : State) (w : Word) : State := { s with i := w }

/-- `MEM` replaced. -/
def State.setMem (s : State) (m : Memory) : State := { s with mem := m }

/-- `RUN <- r`. -/
def State.setRun (s : State) (r : RunState) : State := { s with run := r }

/-- `PC <- target` by the instruction itself: the automatic advance is skipped (R113). -/
def State.jump (s : State) (target : Word) : State := { s with pc := target }

/-- `PC <- PC + 2`, the automatic advance (R113); also the extra advance of a skip (R144). -/
def State.advance (s : State) : State := { s with pc := s.pc + 2 }

/-- The end of a skip instruction: the extra `PC <- PC + 2` when the condition holds, then the automatic one (R144). -/
def State.skipIf (s : State) (c : Bool) : State := { s with pc := if c then s.pc + 2 + 2 else s.pc + 2 }

/-! ### The call stack (R27, R28) -/

/-- `SP <- SP + 1; STACK[SP-1] <- w` where the entry exists (R133). -/
def State.push (s : State) (w : Word) (h : s.sp.toNat < 16) : State :=
  { s with sp := s.sp + 1, stack := s.stack.set s.sp.toNat w h }

/-- `SP <- SP - 1` (R130); the popped entry keeps its value. -/
def State.pop (s : State) : State := { s with sp := s.sp - 1 }

/-! ### Taking a fault (R211) -/

/-- `raise F(info)`: the fault record is written with PC as it stands, `RUN <- FAULTED`, and nothing else. There is no return from
a fault: FAULTED is terminal (R212). -/
def State.raise (s : State) (code : FaultCode) (info : Word) : State :=
  { s with fault := some ⟨code, s.pc, info⟩, run := .faulted }

/-! ### Events and the Buzzer (R38, R238) -/

/-- The event of a call to the Buzzer (R238). -/
def notificationEvents : Option Notification → List Event
  | none => []
  | some .start => [.buzzerStart]
  | some .stop => [.buzzerStop]

/-- The Buzzer's condition after a call to it (R238), given the one before. -/
def buzzerAfter (on : Bool) : Option Notification → Bool
  | none => on
  | some .start => true
  | some .stop => false

/-! ### The timer block (R230 to R237) -/

/-- `T.tick()` (R232): the value after it, and the notification it fires. -/
def timerTick (value : Byte) : Byte × Option Notification :=
  if value.toNat > 0 then
    (value - 1, if value - 1 = 0 then some .stop else none)
  else (value, none)

/-- `T.set(v)` (R233): the value after it, and the notification it fires. -/
def timerSet (old v : Byte) : Byte × Option Notification :=
  (v, if old = 0 ∧ v.toNat > 0 then some .start else if old.toNat > 0 ∧ v = 0 then some .stop else none)

/-- `DT.get()` (R231). -/
def State.dtGet (s : State) : Byte := s.dt

/-- `DT.set(v)`: the delay timer has no handler (R237). -/
def State.dtSet (s : State) (v : Byte) : State := { s with dt := (timerSet s.dt v).1 }

/-- `DT.tick()`. -/
def State.dtTick (s : State) : State := { s with dt := (timerTick s.dt).1 }

/-- `ST.set(v)`: the Buzzer is the handler, called in the same indivisible step (R234, R237). -/
def State.stSet (s : State) (v : Byte) : State :=
  { s with
    st := (timerSet s.st v).1
    buzzer := buzzerAfter s.buzzer (timerSet s.st v).2
    events := s.events ++ notificationEvents (timerSet s.st v).2 }

/-- `ST.tick()`. -/
def State.stTick (s : State) : State :=
  { s with
    st := (timerTick s.st).1
    buzzer := buzzerAfter s.buzzer (timerTick s.st).2
    events := s.events ++ notificationEvents (timerTick s.st).2 }

/-! ### The random source and the keys (R187, R190, R196) -/

/-- The byte `random_byte()` returns: the next one supplied, or a free value (R187; log entry 3). -/
def State.randomByte (s : State) : Byte :=
  match s.rndIn with
  | r :: _ => r
  | [] => Config.freeRandom s.draws

/-- One sample is consumed (R186). -/
def State.consumeRandom (s : State) : State :=
  { s with rndIn := s.rndIn.tail, draws := if s.rndIn = [] then s.draws + 1 else s.draws }

/-- `Keyboard.isPressed(k)`: a sample of `KEYS[k]` (R190). -/
def State.isPressed (s : State) (k : Nat) : Bool := s.keys.getLsbD k

/-- `{ j in 0..15 : KEYS[j] = 1 }`, in ascending order (R193). -/
def State.pressedKeys (s : State) : List Nat := (List.range 16).filter s.isPressed

/-- The key Fx0A takes out of a nonempty set, a draw where there are several (R196; log entry 4). -/
def State.chosenKey (s : State) : List Nat → Nat
  | [] => 0
  | [k] => k
  | k :: ks => (k :: ks).getD (Config.freeKeyIndex s.draws % (ks.length + 1)) k

/-- The draw of `chosenKey` is taken where there are several keys. -/
def State.consumeChoice (s : State) (pressed : List Nat) : State :=
  { s with draws := if pressed.length > 1 then s.draws + 1 else s.draws }

end Sys2Proof.Machine
end

