-- ==== Sys2Proof/Machine/Operands.lean ====
section
/-! DEFINITION. The operand forms beyond the plain register and immediate: the one data addressing mode (R176) with its bounds check
(R56), the key number (R195), the glyph address (R172) and the jump targets. -/

namespace Sys2Proof.Machine

/-- A 12-bit address operand, "used zero-extended to 16 bits" (R83). -/
def addrOperand (nnn : Addr) : Word := nnn.zeroExtend 16

/-- The effective address of the k-th byte an instruction moves: `I + k`, a natural number, never wrapped (R176). -/
def State.ea (s : State) (k : Nat) : Nat := s.i.toNat + k

/-- Whether the `len` bytes from I are all in memory; a range of no bytes always is (R56, R182). -/
def State.rangeOk (s : State) (len : Nat) : Bool := len == 0 || decide (s.i.toNat + len ≤ Config.memSize)

/-- "the first address of the range that is outside memory, max(I, 0x1000)" (R210). -/
def State.firstOutside (s : State) : Word := if s.i.toNat < Config.memSize then 0x1000 else s.i

/-- An instruction that moves `len` bytes at I: `MemoryBounds` where the range reaches above 0xFFF, before any effect; else the
instruction's effect (R56, R211). -/
def State.checkRange (s : State) (len : Nat) (effect : State) : Result :=
  if s.rangeOk len then .next effect else .next (s.raise .memoryBounds s.firstOutside)

/-- The `len` bytes from I, ascending (R57). -/
def State.bytesAtI (s : State) (len : Nat) : List Byte := s.mem.readBytes s.i.toNat len

/-- The memory after stores of bytes from I, ascending (R57). -/
def State.storeAtI (s : State) (bytes : List Byte) : Memory := s.mem.writeBytes s.i.toNat bytes

/-- The bytes of V0..Vx (R174). -/
def State.regsTo (s : State) (x : Reg) : List Byte := s.v.toList.take (x.val + 1)

/-- The register file after `V[k] <- MemRead(I + k, 1)` for k = 0 .. x (R175): I is no V register, so the order of the loads makes no
difference. -/
def State.loadRegsTo (s : State) (x : Reg) : Vector Byte 16 :=
  Vector.ofFn fun r => if r ≤ x then s.mem.read (s.ea r) else s.reg r

/-- An instruction on the key whose number is in register x: `KeyIndexOutOfRange` where Vx > 15, else the instruction's effect
(R195). -/
def State.checkKey (s : State) (x : Reg) (effect : State) : Result :=
  if (s.reg x).toNat > 15 then .next (s.raise .keyIndexOutOfRange (zext16 (s.reg x))) else .next effect

/-- "5·Vx", the formula applied to the whole 8-bit value (R172). -/
def glyphAddress (b : Byte) : Word := 5 * zext16 b

/-- The decimal digits of a byte: hundreds, tens, ones (R173). -/
def bcdDigits (b : Byte) : List Byte := [b / 100, b / 10 % 10, b % 10]

end Sys2Proof.Machine
end

