-- ==== Sys2Proof/Machine/Alu.lean ====
section
/-! DEFINITION. Register loads and arithmetic (43_alu.md): 6xkk, 7xkk, 8xy0 to 8xy7, 8xyE. The effects of an instruction take place
in the order the spec lists them, the second reading the registers as the first left them (R161, D7; log entry 13). -/

namespace Sys2Proof.Machine

/-- 6xkk (R150). -/
def execLdImm (x : Reg) (kk : Byte) (s : State) : Result := .next (s.setReg x kk).advance

/-- 7xkk (R151): modulo 256, no flag. -/
def execAddImm (x : Reg) (kk : Byte) (s : State) : Result := .next (s.setReg x (s.reg x + kk)).advance

/-- 8xy0 (R152). -/
def execLdReg (x y : Reg) (s : State) : Result := .next (s.setReg x (s.reg y)).advance

/-- 8xy1 (R153). -/
def execOrReg (x y : Reg) (s : State) : Result := .next (s.setReg x (s.reg x ||| s.reg y)).advance

/-- 8xy2 (R154). -/
def execAndReg (x y : Reg) (s : State) : Result := .next (s.setReg x (s.reg x &&& s.reg y)).advance

/-- 8xy3 (R155). -/
def execXorReg (x y : Reg) (s : State) : Result := .next (s.setReg x (s.reg x ^^^ s.reg y)).advance

/-- 8xy4 (R156): the sum is formed once, from the values both registers hold at the start; Vx first, then VF. -/
def execAddReg (x y : Reg) (s : State) : Result :=
  .next ((s.setReg x (s.reg x + s.reg y)).setReg VF (carryFlag (s.reg x) (s.reg y))).advance

/-- 8xy5 (R157): VF first, then Vx from the registers as that left them. -/
def execSub (x y : Reg) (s : State) : Result :=
  let s1 := s.setReg VF (greaterFlag (s.reg x) (s.reg y))
  .next (s1.setReg x (s1.reg x - s1.reg y)).advance

/-- 8xy6 (R158): VF first, then Vx; y is ignored (R88). -/
def execShr (x _y : Reg) (s : State) : Result :=
  let s1 := s.setReg VF (lowBitFlag (s.reg x))
  .next (s1.setReg x (s1.reg x >>> 1)).advance

/-- 8xy7 (R159): VF first, then Vx from the registers as that left them. -/
def execSubn (x y : Reg) (s : State) : Result :=
  let s1 := s.setReg VF (greaterFlag (s.reg y) (s.reg x))
  .next (s1.setReg x (s1.reg y - s1.reg x)).advance

/-- 8xyE (R160): VF first, then Vx; y is ignored (R88). -/
def execShl (x _y : Reg) (s : State) : Result :=
  let s1 := s.setReg VF (highBitFlag (s.reg x))
  .next (s1.setReg x (s1.reg x <<< 1)).advance

end Sys2Proof.Machine
end

