-- ==== Sys2Proof/Machine/Display.lean ====
section
/-! DEFINITION. The Display's side of the contract (R180, R183 to R185, R240). -/

namespace Sys2Proof.Machine

/-- `G[row][col]`. -/
def Grid.pixel (g : Grid) (row : Fin 32) (col : Fin 64) : Bool := g[row][col]

/-- `G[row][col] <- p`. -/
def Grid.setPixel (g : Grid) (row : Fin 32) (col : Fin 64) (p : Bool) : Grid := g.set row (g[row].set col p)

/-- The body of the loops of R183 for one sprite bit: XOR into the pixel, and a collision where it goes from lit to unlit. -/
def drawPixel (acc : Grid × Bool) (row : Fin 32) (col : Fin 64) (bit : Bool) : Grid × Bool :=
  let old := acc.1.pixel row col
  let new := old ^^ bit
  (acc.1.setPixel row col new, acc.2 || (old && !new))

/-- The inner loop of R183, for c = 0 .. 7: bit 7 of the byte is the leftmost pixel, columns wrap at 64. -/
def drawRow (acc : Grid × Bool) (x y : Byte) (r : Nat) (b : Byte) : Grid × Bool :=
  (List.range 8).foldl
    (fun a c => drawPixel a (Fin.ofNat 32 (y.toNat + r)) (Fin.ofNat 64 (x.toNat + c)) (b.getLsbD (7 - c))) acc

/-- The outer loop of R183, for the rows from r on: rows wrap at 32. -/
def drawRows (acc : Grid × Bool) (x y : Byte) : Nat → List Byte → Grid × Bool
  | _, [] => acc
  | r, b :: bs => drawRows (drawRow acc x y r b) x y (r + 1) bs

/-- `draw(x, y, s)` of the reference Display: the grid after it and the collision reply (R183, R184). -/
def Grid.draw (g : Grid) (x y : Byte) (sprite : List Byte) : Grid × Bool := drawRows (g, false) x y 0 sprite

/-- `Display.draw`: the Display after it and its reply. An empty sprite changes nothing and returns false, whatever the Display (R182,
D20). `free` is the reply of an external Display that has none supplied. -/
def Display.draw (d : Display) (free : Bool) (x y : Byte) (sprite : List Byte) : Display × Bool :=
  match d, sprite with
  | .reference g, bs => (.reference (g.draw x y bs).1, (g.draw x y bs).2)
  | .null, _ => (.null, false)
  | .external cs, [] => (.external cs, false)
  | .external (c :: cs), _ :: _ => (.external cs, c)
  | .external [], _ :: _ => (.external [], free)

/-- Whether a draw of a sprite takes a free value. -/
def Display.drawsFree : Display → List Byte → Bool
  | .external [], _ :: _ => true
  | .external [], [] => false
  | .external (_ :: _), _ => false
  | .reference _, _ => false
  | .null, _ => false

/-- `Display.clear()` (R185). -/
def Display.clear : Display → Display
  | .reference _ => .reference Grid.blank
  | .null => .null
  | .external cs => .external cs

/-- The Display after `INIT`: the reference Display starts blank (R185, D20), and the other kinds hold no pixel. DESIGN CHOICE (log
entry 14), unsafe: the replies already supplied to an external Display and not yet used are kept over an `INIT`, a second one (R267)
included, as inputs of the environment. -/
def Display.fresh (d : Display) : Display := d.clear

/-- An external Display is given a reply to answer with; the other kinds decide their own (R180). -/
def Display.supply (c : Bool) : Display → Display
  | .external cs => .external (cs ++ [c])
  | .reference g => .reference g
  | .null => .null

/-- The reply to a draw request in this state (R182). -/
def State.drawReply (s : State) (x y : Byte) (sprite : List Byte) : Bool :=
  (s.display.draw (Config.freeCollision s.draws) x y sprite).2

/-- A draw request answered and recorded: `DisplayDraw(x, y, sprite, collision)` (R38, R182). -/
def State.drawSprite (s : State) (x y : Byte) (sprite : List Byte) : State :=
  { s with
    display := (s.display.draw (Config.freeCollision s.draws) x y sprite).1
    draws := if s.display.drawsFree sprite then s.draws + 1 else s.draws
    events := s.events ++ [.displayDraw x y sprite (s.drawReply x y sprite)] }

/-- `Display.clear()` called and recorded (R181). -/
def State.clearDisplay (s : State) : State :=
  { s with display := s.display.clear, events := s.events ++ [.displayClear] }

end Sys2Proof.Machine
end

