-- ==== Sys2Proof/Machine/DisplayRandom.lean ====
section
/-! DEFINITION. Display and random-number instructions (45_display_random.md): 00E0, Dxyn, Cxkk. -/

namespace Sys2Proof.Machine

/-- 00E0 (R181). -/
def execCls (s : State) : Result := .next s.clearDisplay.advance

/-- Dxyn (R182): the coordinates and the sprite are read before VF is written; `MemoryBounds` before the Display is called. -/
def execDrw (x y : Reg) (n : Nibble) (s : State) : Result :=
  let sprite := s.bytesAtI n.toNat
  s.checkRange n.toNat
    ((s.drawSprite (s.reg x) (s.reg y) sprite).setReg VF
      (collisionFlag (s.drawReply (s.reg x) (s.reg y) sprite))).advance

/-- Cxkk (R186): one sample of the random source, masked. -/
def execRnd (x : Reg) (kk : Byte) (s : State) : Result :=
  .next (s.consumeRandom.setReg x (s.randomByte &&& kk)).advance

end Sys2Proof.Machine
end

