-- ==== Sys2Proof/Machine/Flow.lean ====
section
/-! DEFINITION. Jumps, calls and returns (41_flow.md): 00EE, 0nnn, 1nnn, 2nnn, Bnnn. They write PC themselves, so none ends with the
automatic advance (R113). -/

namespace Sys2Proof.Machine

/-- 00EE (R130): the popped entry goes to PC; `StackUnderflow` when SP = 0. The popped address is not checked. -/
def execRet (s : State) : Result :=
  if s.sp = 0 then .next (s.raise .stackUnderflow (zext16 s.sp))
  else if h : s.sp.toNat - 1 < 16 then .next ((s.jump s.stack[s.sp.toNat - 1]).pop)
  else .fault (.noStackEntry s.sp)

/-- 0nnn (R131): "treated as jump". -/
def execSys (nnn : Addr) (s : State) : Result := .next (s.jump (addrOperand nnn))

/-- 1nnn (R132). -/
def execJp (nnn : Addr) (s : State) : Result := .next (s.jump (addrOperand nnn))

/-- 2nnn (R133): pushes the address of the next instruction, a + 2 (C1, D2); `StackOverflow` when SP = 16. -/
def execCall (nnn : Addr) (s : State) : Result :=
  if s.sp = 16 then .next (s.raise .stackOverflow (zext16 s.sp))
  else if h : s.sp.toNat < 16 then .next ((s.push (s.pc + 2) h).jump (addrOperand nnn))
  else .fault (.noStackEntry s.sp)

/-- Bnnn (R134): nnn + V0, 16 bits, not reduced to 12. -/
def execJpV0 (nnn : Addr) (s : State) : Result := .next (s.jump (addrOperand nnn + zext16 (s.reg 0)))

end Sys2Proof.Machine
end

