-- ==== Sys2Proof/Machine/Index.lean ====
section
/-! DEFINITION. The address register and memory transfers (44_index_memory.md): Annn, Fx1E, Fx29, Fx33, Fx55, Fx65. No memory
instruction changes I (R176). -/

namespace Sys2Proof.Machine

/-- Annn (R170). -/
def execLdI (nnn : Addr) (s : State) : Result := .next (s.setIndex (addrOperand nnn)).advance

/-- Fx1E (R171): modulo 65536, no flag. -/
def execAddIVx (x : Reg) (s : State) : Result := .next (s.setIndex (s.i + zext16 (s.reg x))).advance

/-- Fx29 (R172). -/
def execLdFVx (x : Reg) (s : State) : Result := .next (s.setIndex (glyphAddress (s.reg x))).advance

/-- Fx33 (R173). -/
def execLdBVx (x : Reg) (s : State) : Result :=
  s.checkRange 3 (s.setMem (s.storeAtI (bcdDigits (s.reg x)))).advance

/-- Fx55 (R174). -/
def execLdMemVx (x : Reg) (s : State) : Result :=
  s.checkRange (x.val + 1) (s.setMem (s.storeAtI (s.regsTo x))).advance

/-- Fx65 (R175). -/
def execLdVxMem (x : Reg) (s : State) : Result :=
  s.checkRange (x.val + 1) (s.setRegs (s.loadRegsTo x)).advance

end Sys2Proof.Machine
end

