-- ==== Sys2Proof/Machine/Keyboard.lean ====
section
/-! DEFINITION. Keyboard instructions (46_keyboard.md): Ex9E, ExA1, Fx0A. -/

namespace Sys2Proof.Machine

/-- Ex9E (R191, R195). -/
def execSkp (x : Reg) (s : State) : Result :=
  s.checkKey x (s.skipIf (s.isPressed (s.reg x).toNat))

/-- ExA1 (R192, R195). -/
def execSknp (x : Reg) (s : State) : Result :=
  s.checkKey x (s.skipIf (!s.isPressed (s.reg x).toNat))

/-- Fx0A (R193, R196): with no key pressed a hold, `RUN <- WAITKEY` and nothing else; with a key pressed its number goes to Vx,
`RUN <- RUNNING`, and PC advances. Level-sensitive (D9). -/
def execLdVxK (x : Reg) (s : State) : Result :=
  if s.keys = 0 then .next (s.setRun .waitKey)
  else
    .next (((s.consumeChoice s.pressedKeys).setReg x (BitVec.ofNat 8 (s.chosenKey s.pressedKeys))).setRun .running).advance

end Sys2Proof.Machine
end

