-- ==== Sys2Proof/Machine/TimerOps.lean ====
section
/-! DEFINITION. Timer instructions (47_timer_ops.md): Fx07, Fx15, Fx18, each one atomic timer operation. -/

namespace Sys2Proof.Machine

/-- Fx07 (R200): `V[x] <- DT.get()`. -/
def execLdVxDT (x : Reg) (s : State) : Result := .next (s.setReg x s.dtGet).advance

/-- Fx15 (R201): `DT.set(V[x])`. -/
def execLdDTVx (x : Reg) (s : State) : Result := .next (s.dtSet (s.reg x)).advance

/-- Fx18 (R202): `ST.set(V[x])`, with the Buzzer notification of R233. -/
def execLdSTVx (x : Reg) (s : State) : Result := .next (s.stSet (s.reg x)).advance

end Sys2Proof.Machine
end

