-- ==== Sys2Proof/Machine/Init.lean ====
section
/-! DEFINITION. `INIT(ROM)` (R260 to R264): the reset and boot of the machine, with the font table an argument (R263). -/

namespace Sys2Proof.Machine

/-- The 80 bytes of a font table in the order of their addresses (R262). -/
def fontBytes (f : Font) : List Byte := (List.range 80).map (fontByte f)

/-- Memory after `INIT` (R260, R262): zero, then the font at 0x000, then the ROM at 0x200. The empty list reads as zero everywhere
but in 0x000..0x04F, which the font overwrites. -/
def initMemory (f : Font) (rom : List Byte) : Memory :=
  (Memory.writeBytes [] 0 (fontBytes f)).writeBytes Config.progBase rom

/-- The state `INIT` leaves (R260, R261), in the machine's environment as it is: the kind of Display connected and the replies
supplied to an external one and not yet used, the key lines, the random bytes supplied, the turns to come, the counters of free values.
The event list starts anew and `CANCEL` is released. DESIGN CHOICE (log entry 14). -/
def State.boot (s : State) (f : Font) (rom : List Byte) : State :=
  { State.reset with
    mem := initMemory f rom
    display := s.display.fresh
    keys := s.keys
    rndIn := s.rndIn
    draws := s.draws
    agenda := s.agenda
    rounds := s.rounds }

/-- `INIT(ROM)`: a ROM of at most 3584 bytes boots; a longer one, or one that cannot be read, is a boot error (R218, R264). -/
def State.init (s : State) (f : Font) : RomSource → Result
  | .bytes rom => if rom.length ≤ Config.maxRom then .next (s.boot f rom) else .refused (.bootError .romTooLong)
  | .readFailure => .refused (.bootError .romReadFailure)

end Sys2Proof.Machine
end

