-- ==== Sys2Proof/Machine/Cycle.lean ====
section
/-! DEFINITION. The instruction cycle of the CPU (40_cycle.md) and the steps of the other agents (R5, R215, R239). -/

namespace Sys2Proof.Machine

/-- The three states no cycle ever starts from (R34, R111). -/
def RunState.terminal : RunState → Bool
  | .running => false
  | .waitKey => false
  | .haltedEnd => true
  | .cancelled => true
  | .faulted => true

/-- The two bytes the cycle fetches, `MEM[PC]` and `MEM[PC+1]` (R116). -/
def State.fetchBytes (s : State) : List Byte := s.mem.readBytes s.pc.toNat 2

/-- The word the cycle fetches: `MEM[PC]*256 + MEM[PC+1]` (R52). -/
def State.fetchWord (s : State) : Word := s.mem.read s.pc.toNat ++ s.mem.read (s.pc.toNat + 1)

/-- Fetch, decode, dispatch and execute, after the checks that come before fetch (R110). -/
def State.runAtPC (s : State) : Result :=
  match decode s.fetchBytes with
  | .ok (i, _) => exec i s
  | .error _ => .next (s.raise .illegalInstruction s.fetchWord)

/-- One cycle: the stop conditions in the order of R118, then the instruction. A terminal core takes no step: nothing changes (R111;
log entry 9). -/
def cycle (s : State) : Result :=
  if s.run.terminal then .next s
  else if s.cancel then .next (s.setRun .cancelled)
  else if Config.memSize ≤ s.pc.toNat then .next (s.setRun .haltedEnd)
  else if s.pc.getLsbD 0 then .next (s.raise .misalignedFetch s.pc)
  else s.runAtPC

/-- The step of the agent whose turn it is. Ticks and inputs act whatever `RUN` is (R111, R236). -/
def takeTurn (s : State) : Turn → Result
  | .cpu => cycle s
  | .tickDT => .next s.dtTick
  | .tickST => .next s.stTick
  | .keys level => .next { s with keys := level }
  | .rnd sample => .next { s with rndIn := s.rndIn ++ [sample] }
  | .reply c => .next { s with display := s.display.supply c }
  | .cancel => .next { s with cancel := true }
  | .init f rom => s.init f rom

/-- The turns to come: the agenda, or the next round where the agenda is used up (R236: "The schedules run from reset for ever"; log
entry 1). Never empty (`plan_ne_nil`). -/
def State.plan (s : State) : List Turn :=
  match s.agenda with
  | a :: as => a :: as
  | [] => fairRound (Config.freeRound s.rounds)

/-- Whose turn it is. -/
def State.nextTurn (s : State) : Turn := s.plan.headD .cpu

/-- The state with that turn taken. -/
def State.turnTaken (s : State) : State :=
  { s with agenda := s.plan.tail, rounds := if s.agenda = [] then s.rounds + 1 else s.rounds }

end Sys2Proof.Machine
end

