-- ==== Sys2Proof/Machine/FetchWord.lean ====
section
/-! DEFINITION. Placing an instruction word where the CPU fetches next: what stands for a program loaded from outside (log entry 7). -/

namespace Sys2Proof.Machine

/-- Whether a cycle at this PC fetches (R114, R115). -/
def fetchable (pc : Word) : Bool := decide (pc.toNat < Config.memSize) && !pc.getLsbD 0

/-- The CPU is ready to fetch: its turn is next, it is neither stopped nor cancelled, and PC is an even address of memory. What is so
already is left as it is. -/
def State.readyToFetch (s : State) : State :=
  { s with
    pc := if fetchable s.pc then s.pc else 0x0200
    run := if s.run.terminal then .running else s.run
    cancel := false
    agenda := if s.agenda.head? = some .cpu then s.agenda else .cpu :: s.agenda }

/-- The word's two bytes stored at PC, high byte first (R52), in a state that fetches them next. -/
def State.placeWord (s : State) (w : Word) : State :=
  let r := s.readyToFetch
  r.setMem (r.mem.writeBytes r.pc.toNat [w.extractLsb' 8 8, w.extractLsb' 0 8])

end Sys2Proof.Machine
end

