-- ==== Sys2Proof/Machine/Step.lean ====
section
/-! DEFINITION. One step of the machine: one step of one agent (R5, R239). And the host's way to place an instruction where the next
step fetches. -/

namespace Sys2Proof.Machine

/-- One step: the agent whose turn it is takes it. -/
def step (s : State) : Host.Outcome State Fault Refusal := takeTurn s.turnTaken s.nextTurn

/-- `s` with the table word `w` of `nbits` bits where the next step fetches it, and that step the CPU's. -/
def State.withFetchWord (s : State) (nbits w : Nat) : State := s.placeWord (BitVec.ofNat 16 (w % 2 ^ nbits))

end Sys2Proof.Machine
end

