-- ==== Sys2Proof/Safety.lean ====
section
/-! DEFINITION. The terms claims use: reading a byte, frames (what an instruction leaves as it was), what taking a fault leaves, and
the invariants every step keeps. -/

namespace Sys2Proof.Machine

/-- The byte the machine holds at an address of memory. -/
def State.byteAt (s : State) (a : Nat) : Byte := s.mem.read a

/-! ### Frames -/

/-- The state besides V, PC and memory, in parts an instruction may leave as they were. -/
inductive Part where
  | index
  | callStack
  | delayTimer
  | soundTimer
  | runState
  | faultRecord
  | display
  | buzzer
  | events
  | keys
  | random
  | cancel
  | draws
  | agenda
  deriving DecidableEq, Repr

/-- A part of `t` is as in `s`. -/
def Part.same (s t : State) : Part → Prop
  | .index => t.i = s.i
  | .callStack => t.sp = s.sp ∧ t.stack = s.stack
  | .delayTimer => t.dt = s.dt
  | .soundTimer => t.st = s.st
  | .runState => t.run = s.run
  | .faultRecord => t.fault = s.fault
  | .display => t.display = s.display
  | .buzzer => t.buzzer = s.buzzer
  | .events => t.events = s.events
  | .keys => t.keys = s.keys
  | .random => t.rndIn = s.rndIn
  | .cancel => t.cancel = s.cancel
  | .draws => t.draws = s.draws
  | .agenda => t.agenda = s.agenda ∧ t.rounds = s.rounds

/-- `t` is `s` but for PC, the registers in `regs`, the bytes of memory at the addresses in `bytes`, and the parts listed. -/
def Frame (regs : Reg → Prop) (bytes : Nat → Prop) (parts : List Part) (s t : State) : Prop :=
  (∀ r, ¬ regs r → t.reg r = s.reg r) ∧
  (∀ a, ¬ bytes a → t.byteAt a = s.byteAt a) ∧
  (∀ p, p ∉ parts → p.same s t)

/-- No register. -/
def noReg (_ : Reg) : Prop := False

/-- No byte of memory. -/
def noByte (_ : Nat) : Prop := False

/-- `t` is what `raise code(info)` leaves of `s` (R211): the record, `RUN = FAULTED`, PC at the faulting instruction, nothing else
changed. -/
def Raised (s t : State) (code : FaultCode) (info : Nat) : Prop :=
  t.run = .faulted ∧
  (∃ w : Word, w.toNat = info ∧ t.fault = some ⟨code, s.pc, w⟩) ∧
  t.pc = s.pc ∧
  Frame noReg noByte [.runState, .faultRecord] s t

/-- `t` is `s` as far as anything but the parts listed goes: registers, PC and memory too. -/
def Agree (parts : List Part) (s t : State) : Prop := t.pc = s.pc ∧ Frame noReg noByte parts s t

/-! ### Words written out from the formats of R82, without the encoder -/

/-- A register number as the nibble that names it (R83). -/
def regNibble (x : Reg) : Nibble := .ofFin x

/-- Format NNN: o1 in w[15:12], nnn in w[11:0]. -/
def wordNNN (o1 : Nibble) (nnn : Addr) : Word := o1 ++ nnn

/-- Format XKK: o1, x in w[11:8], kk in w[7:0]; format XLL where kk is fixed. -/
def wordXKK (o1 : Nibble) (x : Reg) (kk : Byte) : Word := o1 ++ regNibble x ++ kk

/-- Format XYN: o1, x in w[11:8], y in w[7:4], n in w[3:0]; format XY where n is fixed. -/
def wordXYN (o1 : Nibble) (x y : Reg) (n : Nibble) : Word := o1 ++ regNibble x ++ regNibble y ++ n

/-! ### Runs of instructions, and the registers an instruction may write -/

/-- Instructions executed one after the other, up to the first that stops. -/
def execAll : List Instr → State → Result
  | [], s => .next s
  | i :: is, s =>
    match exec i s with
    | .next t => execAll is t
    | .fault r => .fault r
    | .refused r => .refused r

/-- The instructions that write VF as a flag (R22): "exactly 8xy4 ..., 8xy5 and 8xy7 ..., 8xy6 and 8xyE ... and Dxyn". -/
def writesFlag : Instr → Bool
  | .addReg _ _ => true
  | .sub _ _ => true
  | .shr _ _ => true
  | .subn _ _ => true
  | .shl _ _ => true
  | .drw _ _ _ => true
  | .cls => false
  | .ret => false
  | .sys _ => false
  | .jp _ => false
  | .call _ => false
  | .seImm _ _ => false
  | .sneImm _ _ => false
  | .seReg _ _ => false
  | .ldImm _ _ => false
  | .addImm _ _ => false
  | .ldReg _ _ => false
  | .orReg _ _ => false
  | .andReg _ _ => false
  | .xorReg _ _ => false
  | .sneReg _ _ => false
  | .ldI _ => false
  | .jpV0 _ => false
  | .rnd _ _ => false
  | .skp _ => false
  | .sknp _ => false
  | .ldVxDT _ => false
  | .ldVxK _ => false
  | .ldDTVx _ => false
  | .ldSTVx _ => false
  | .addIVx _ => false
  | .ldFVx _ => false
  | .ldBVx _ => false
  | .ldMemVx _ => false
  | .ldVxMem _ => false

/-- The registers an instruction names as its destination (10_state.md, "written by"). -/
def namesDest : Instr → Reg → Bool
  | .ldImm x _, r => r == x
  | .addImm x _, r => r == x
  | .ldReg x _, r => r == x
  | .orReg x _, r => r == x
  | .andReg x _, r => r == x
  | .xorReg x _, r => r == x
  | .addReg x _, r => r == x
  | .sub x _, r => r == x
  | .shr x _, r => r == x
  | .subn x _, r => r == x
  | .shl x _, r => r == x
  | .rnd x _, r => r == x
  | .ldVxDT x, r => r == x
  | .ldVxK x, r => r == x
  | .ldVxMem x, r => decide (r ≤ x)
  | .cls, _ => false
  | .ret, _ => false
  | .sys _, _ => false
  | .jp _, _ => false
  | .call _, _ => false
  | .seImm _ _, _ => false
  | .sneImm _ _, _ => false
  | .seReg _ _, _ => false
  | .sneReg _ _, _ => false
  | .ldI _, _ => false
  | .jpV0 _, _ => false
  | .drw _ _ _, _ => false
  | .skp _, _ => false
  | .sknp _, _ => false
  | .ldDTVx _, _ => false
  | .ldSTVx _, _ => false
  | .addIVx _, _ => false
  | .ldFVx _, _ => false
  | .ldBVx _, _ => false
  | .ldMemVx _, _ => false

/-! ### Invariants -/

/-- Memory is in its canonical form. -/
def MemoryInv (s : State) : Prop := s.mem.wf

/-- SP counts live entries of the stack, each an even address a run can return to, and PC is within the bound of R25, so that no
addition on it wraps. -/
def ControlInv (s : State) : Prop :=
  s.sp.toNat ≤ 16 ∧
  (∀ k, (h : k < 16) → k < s.sp.toNat → (s.stack[k]).toNat % 2 = 0 ∧ (s.stack[k]).toNat ≤ 0x1000) ∧
  s.pc.toNat ≤ 0x10FE

/-- The Buzzer's condition after a list of events, from `on`; none where a start meets a running Buzzer or a stop an idle one
(R235). -/
def buzzerTrace : Bool → List Event → Option Bool
  | on, [] => some on
  | on, .buzzerStart :: es => if on then none else buzzerTrace true es
  | on, .buzzerStop :: es => if on then buzzerTrace false es else none
  | on, .displayClear :: es => buzzerTrace on es
  | on, .displayDraw _ _ _ _ :: es => buzzerTrace on es

/-- "BuzzerStart and BuzzerStop events alternate strictly, beginning with a start, and at any moment the Buzzer is on exactly when
ST > 0" (R235). -/
def BuzzerInv (s : State) : Prop :=
  buzzerTrace false s.events = some s.buzzer ∧ (s.buzzer = true ↔ s.st.toNat > 0)

/-- The fault record is written exactly in FAULTED (R35, R211), with the PC of the instruction that stands there. -/
def FaultInv (s : State) : Prop :=
  (s.run = .faulted ↔ s.fault ≠ none) ∧ ∀ f, s.fault = some f → f.pc = s.pc

/-- In WAITKEY "the instruction at PC is Fx0A" (R34), at an address a cycle fetches from. -/
def WaitKeyInv (s : State) : Prop :=
  s.run = .waitKey →
    s.pc.toNat < 0x1000 ∧ s.pc.toNat % 2 = 0 ∧ ∃ x, decode [s.byteAt s.pc.toNat, s.byteAt (s.pc.toNat + 1)] = .ok (.ldVxK x, [])

/-- The turn that comes next is no failing `INIT` (R218): the environment owes a ROM that can be read and fits (R266). -/
def BootOk (s : State) : Prop :=
  ∀ f src, s.nextTurn = .init f src → ∃ rom, src = .bytes rom ∧ rom.length ≤ 3584

end Sys2Proof.Machine
end

