-- ==== Sys2Proof/Certificates/Slice0/Obligations.lean ====
section
/-! DEFINITION. The statements about the machine, for the provers. Each docstring says which rule of the spec it formalises. Where a
statement rests on a decision of the spec's own (`[decision: ... D<n>]`) or of the model's (log entry <n>), it says so. -/

open Sys2Proof Sys2Proof.Machine

/-! ### Encoding (30_encoding.md) -/

/-- Words written out from R82 and R86, by hand, decode to the instructions they stand for; a sanity statement. -/
def Obligations.DecodeOfWrittenOutWords : Prop :=
  decodeWord 0x00E0 = some .cls ∧ decodeWord 0x00EE = some .ret ∧ decodeWord 0x00E1 = some (.sys 0x0E1) ∧
  decodeWord 0x1ABC = some (.jp 0xABC) ∧ decodeWord 0x220C = some (.call 0x20C) ∧ decodeWord 0x3A12 = some (.seImm 10 0x12) ∧
  decodeWord 0x9120 = some (.sneReg 1 2) ∧ decodeWord 0x6A2F = some (.ldImm 10 0x2F) ∧ decodeWord 0x8125 = some (.sub 1 2) ∧
  decodeWord 0x81FE = some (.shl 1 15) ∧ decodeWord 0xA123 = some (.ldI 0x123) ∧ decodeWord 0xF133 = some (.ldBVx 1) ∧
  decodeWord 0xD125 = some (.drw 1 2 5) ∧ decodeWord 0xC30F = some (.rnd 3 0x0F) ∧ decodeWord 0xE59E = some (.skp 5) ∧
  decodeWord 0xF30A = some (.ldVxK 3) ∧ decodeWord 0xF118 = some (.ldSTVx 1) ∧ decodeWord 0x5121 = none ∧
  decodeWord 0x8008 = none ∧ decodeWord 0xE19F = none ∧ decodeWord 0xF1FF = none

/-- Decoding the bytes of an encoded well-formed instruction gives it back, with every operand, whatever follows (R82, R83, R84). -/
def Obligations.DecodeInvertsEncode : Prop :=
  ∀ (i : Instr) (rest : List Byte), i.wf = true → decode (encodeBytes i ++ rest) = .ok (i, rest)

/-- What decodes is well formed and encodes to the very bytes it was read from: no bit of a word is dropped, the ignored y of 8xy6
and 8xyE included (R82, R84, R88). -/
def Obligations.EncodeInvertsDecode : Prop :=
  ∀ (bytes rest : List Byte) (i : Instr), decode bytes = .ok (i, rest) → i.wf = true ∧ bytes = encodeBytes i ++ rest

/-- Dispatch is the opcode map read by mask and match, the first row that fits deciding (R84, R85 by way of the rows of R86); the
fixed words' near misses are 0nnn; and no two rows overlap but the two fixed words with 0nnn. -/
def Obligations.DispatchFollowsOpcodeMap : Prop :=
  (∀ w : Word, (opcodeRows.find? (fun r => r.fits w)).map Row.number = (decodeWord w).map Instr.row) ∧
  (decodeWord 0x00E1 = some (.sys 0x0E1) ∧ decodeWord 0x01E0 = some (.sys 0x1E0) ∧ decodeWord 0x0000 = some (.sys 0x000)) ∧
  (∀ r ∈ opcodeRows, ∀ q ∈ opcodeRows, ∀ w : Word, r.fits w = true → q.fits w = true → r.number < q.number →
    (w = 0x00E0 ∧ r.number = 1 ∧ q.number = 3) ∨ (w = 0x00EE ∧ r.number = 2 ∧ q.number = 3))

/-- The unassigned encodings are exactly the five sets of R87. -/
def Obligations.UnassignedWordsExactly : Prop :=
  ∀ w : Word, decodeWord w = none ↔
    (w.toNat / 4096 = 0x5 ∧ w.toNat % 16 ≠ 0) ∨
    (w.toNat / 4096 = 0x9 ∧ w.toNat % 16 ≠ 0) ∨
    (w.toNat / 4096 = 0x8 ∧ w.toNat % 16 ∈ [0x8, 0x9, 0xA, 0xB, 0xC, 0xD, 0xF]) ∨
    (w.toNat / 4096 = 0xE ∧ w.toNat % 256 ∉ [0x9E, 0xA1]) ∨
    (w.toNat / 4096 = 0xF ∧ w.toNat % 256 ∉ [0x07, 0x0A, 0x15, 0x18, 0x1E, 0x29, 0x33, 0x55, 0x65])

/-- The split of any two bytes into nibbles, its reversal, and the operands assembled from the nibbles, unsigned (R81, R83); a 12-bit
operand is used zero-extended to 16 bits. -/
def Obligations.NibblesAndOperands : Prop :=
  (∀ b0 b1 : Byte,
    let n := Nibbles.ofBytes b0 b1
    n.o1.toNat = b0.toNat / 16 ∧ n.o2.toNat = b0.toNat % 16 ∧ n.o3.toNat = b1.toNat / 16 ∧ n.o4.toNat = b1.toNat % 16 ∧
    n.o1.toNat * 4096 + n.o2.toNat * 256 + n.o3.toNat * 16 + n.o4.toNat = b0.toNat * 256 + b1.toNat ∧
    n.byte0 = b0 ∧ n.byte1 = b1) ∧
  (∀ n : Nibbles,
    n.nnn.toNat = n.o2.toNat * 256 + n.o3.toNat * 16 + n.o4.toNat ∧ n.kk.toNat = n.o3.toNat * 16 + n.o4.toNat ∧
    n.x.val = n.o2.toNat ∧ n.y.val = n.o3.toNat ∧ (addrOperand n.nnn).toNat = n.nnn.toNat ∧
    (n.o1 = 0xD → dispatch n = some (.drw n.x n.y n.o4)))

/-! ### The cycle and the agents (40_cycle.md, 60_exceptions.md) -/

/-- When the CPU is to step, is not stopped or cancelled, PC is an even address of memory and the two bytes there decode to `i`, the
step is `exec i` of the state with the turn taken (R110, R116). -/
def Obligations.StepRunsTheDecodedInstruction : Prop :=
  ∀ (s : State) (i : Instr),
    s.nextTurn = .cpu → (s.run = .running ∨ s.run = .waitKey) → s.cancel = false →
    s.pc.toNat < 0x1000 → s.pc.toNat % 2 = 0 →
    decode [s.byteAt s.pc.toNat, s.byteAt (s.pc.toNat + 1)] = .ok (i, []) →
    step s = exec i s.turnTaken

/-- The stop conditions of one cycle in the order of R118 (D21): a terminal core takes no step (R111, log entry 9), `CANCEL` (R112,
D10), PC >= 0x1000 (R114), odd PC (R115, D5), an unassigned word (R117, D6). -/
def Obligations.CycleStopsInOrder : Prop :=
  ∀ s : State, s.nextTurn = .cpu →
    ((s.run = .haltedEnd ∨ s.run = .cancelled ∨ s.run = .faulted) → step s = .next s.turnTaken) ∧
    ((s.run = .running ∨ s.run = .waitKey) →
      (s.cancel = true →
        ∃ t, step s = .next t ∧ t.run = .cancelled ∧ t.pc = s.pc ∧ Frame noReg noByte [.runState] s.turnTaken t) ∧
      (s.cancel = false → 0x1000 ≤ s.pc.toNat →
        ∃ t, step s = .next t ∧ t.run = .haltedEnd ∧ t.pc = s.pc ∧ Frame noReg noByte [.runState] s.turnTaken t) ∧
      (s.cancel = false → s.pc.toNat < 0x1000 → s.pc.toNat % 2 = 1 →
        ∃ t, step s = .next t ∧ Raised s.turnTaken t .misalignedFetch s.pc.toNat) ∧
      (s.cancel = false → s.pc.toNat < 0x1000 → s.pc.toNat % 2 = 0 →
        decode [s.byteAt s.pc.toNat, s.byteAt (s.pc.toNat + 1)] =
          .error (.illegal (s.byteAt s.pc.toNat ++ s.byteAt (s.pc.toNat + 1))) →
        ∃ t, step s = .next t ∧ Raised s.turnTaken t .illegalInstruction
          ((s.byteAt s.pc.toNat).toNat * 256 + (s.byteAt (s.pc.toNat + 1)).toNat)))

/-- Once RUN is terminal, no step but `INIT` leaves it or touches PC, a register, memory, the stack, I or the fault record; the
timers, the inputs and the Buzzer go on (R111, R212, R236; D18, D22). -/
def Obligations.TerminalRunIsForever : Prop :=
  ∀ s t : State, (s.run = .haltedEnd ∨ s.run = .cancelled ∨ s.run = .faulted) →
    (∀ f src, s.nextTurn ≠ .init f src) → step s = .next t →
    t.run = s.run ∧ t.pc = s.pc ∧
    Frame noReg noByte [.delayTimer, .soundTimer, .buzzer, .events, .display, .keys, .random, .cancel, .agenda] s t

/-- A tick decrements a nonzero value by 1, does nothing at 0, and the sound timer's tick that reaches 0 fires the Buzzer's stop, once
(R232). What is left is the state with the turn taken, the model's schedule (log entry 1). -/
def Obligations.TicksCountDown : Prop :=
  (∀ s : State, s.nextTurn = .tickDT →
    ∃ t, step s = .next t ∧ t.dt.toNat = s.dt.toNat - 1 ∧ t.pc = s.pc ∧ Frame noReg noByte [.delayTimer] s.turnTaken t) ∧
  (∀ s : State, s.nextTurn = .tickST →
    ∃ t, step s = .next t ∧ t.st.toNat = s.st.toNat - 1 ∧ t.pc = s.pc ∧
      t.events = s.events ++ (if s.st.toNat = 1 then [.buzzerStop] else []) ∧
      t.buzzer = (if s.st.toNat = 1 then false else s.buzzer) ∧
      Frame noReg noByte [.soundTimer, .buzzer, .events] s.turnTaken t)

/-- k ticks in a row take the sound timer down by k, to 0 and no further, and fire exactly one stop if they reach 0 from above
(R232, R235; the source's S7). And the ticks come: in every run that goes on, from any state, reset included, the turn of each of the
three agents comes, again and again (R236: "The schedules run from reset for ever"; R239, weak fairness). The schedule is the model's:
turns given, then rounds drawn (log entry 1). -/
def Obligations.SoundTimerRunsDown : Prop :=
  (∀ (k : Nat) (s : State) (rest : List Turn), s.agenda = List.replicate k .tickST ++ rest →
    ∃ t, Sys2Proof.core.run k s = .next t ∧ t.st.toNat = s.st.toNat - k ∧ t.agenda = rest ∧ t.rounds = s.rounds ∧ t.pc = s.pc ∧
      t.events = s.events ++ (if 0 < s.st.toNat ∧ s.st.toNat ≤ k then [.buzzerStop] else []) ∧
      t.buzzer = (if 0 < s.st.toNat ∧ s.st.toNat ≤ k then false else s.buzzer) ∧
      Frame noReg noByte [.soundTimer, .buzzer, .events, .agenda] s t) ∧
  (∀ (s : State) (a : Turn), a = .cpu ∨ a = .tickDT ∨ a = .tickST → (∀ k, ∃ t, Sys2Proof.core.run k s = .next t) →
    ∀ n, ∃ k t, n ≤ k ∧ Sys2Proof.core.run k s = .next t ∧ t.nextTurn = a)

/-- Whose turn it is: the head of the agenda, else that of the next round, in which each of the three agents has a turn and `INIT` has
none; taking the turn changes nothing but the schedule. And the environment's steps change the input they name and nothing else,
`CANCEL` only to 1 (R39, R112, R187, R190, R239; log entries 1, 2, 3, 5). -/
def Obligations.InputsReachOnlyTheirLines : Prop :=
  (∀ (s : State) (a : Turn) (as : List Turn), s.agenda = a :: as → s.nextTurn = a ∧ s.turnTaken = { s with agenda := as }) ∧
  (∀ s : State, s.agenda = [] →
    ∃ a as, a :: as = fairRound (Config.freeRound s.rounds) ∧ s.nextTurn = a ∧
      s.turnTaken = { s with agenda := as, rounds := s.rounds + 1 } ∧
      .cpu ∈ a :: as ∧ .tickDT ∈ a :: as ∧ .tickST ∈ a :: as ∧ ∀ f src, .init f src ∉ a :: as) ∧
  (∀ s : State,
    (∀ w, s.nextTurn = .keys w → ∃ t, step s = .next t ∧ t.keys = w ∧ t.pc = s.pc ∧ Frame noReg noByte [.keys] s.turnTaken t) ∧
    (∀ b, s.nextTurn = .rnd b →
      ∃ t, step s = .next t ∧ t.rndIn = s.rndIn ++ [b] ∧ t.pc = s.pc ∧ Frame noReg noByte [.random] s.turnTaken t) ∧
    (s.nextTurn = .cancel → ∃ t, step s = .next t ∧ t.cancel = true ∧ t.pc = s.pc ∧ Frame noReg noByte [.cancel] s.turnTaken t) ∧
    (∀ c, s.nextTurn = .reply c →
      ∃ t, step s = .next t ∧ t.pc = s.pc ∧
        (∀ cs, s.display = .external cs → t.display = .external (cs ++ [c])) ∧
        ((∀ cs, s.display ≠ .external cs) → t.display = s.display) ∧
        Frame noReg noByte [.display] s.turnTaken t))

/-! ### Reset (70_reset_and_hazards.md) -/

/-- The state after reset: the values of R261, with the default font (log entry 6) and the empty ROM (log entry 7) in memory. -/
def Obligations.ResetValues : Prop :=
  (∀ r, State.reset.reg r = 0) ∧ State.reset.i = 0 ∧ State.reset.sp = 0 ∧
  (∀ k, (h : k < 16) → State.reset.stack[k] = 0) ∧ State.reset.pc = 0x0200 ∧ State.reset.dt = 0 ∧ State.reset.st = 0 ∧
  State.reset.run = .running ∧ State.reset.fault = none ∧ State.reset.buzzer = false ∧ State.reset.events = [] ∧
  (∀ g, (hg : g < 16) → ∀ j, (hj : j < 5) → State.reset.byteAt (5 * g + j) = Config.font[g][j]) ∧
  (∀ a, 0x050 ≤ a → State.reset.byteAt a = 0)

/-- Memory after `INIT`, whatever it held before: the font at 5*i, zero up to 0x1FF, the ROM verbatim at 0x200, zero after it
(R262). -/
def Obligations.InitLoadsFontAndRom : Prop :=
  ∀ (s : State) (f : Font) (rom : List Byte), s.nextTurn = .init f (.bytes rom) → rom.length ≤ 3584 →
    ∃ t, step s = .next t ∧
      (∀ g, (hg : g < 16) → ∀ j, (hj : j < 5) → t.byteAt (5 * g + j) = f[g][j]) ∧
      (∀ a, 0x050 ≤ a → a ≤ 0x1FF → t.byteAt a = 0) ∧
      (∀ k, (hk : k < rom.length) → t.byteAt (0x200 + k) = rom[k]) ∧
      (∀ a, 0x200 + rom.length ≤ a → a ≤ 0xFFF → t.byteAt a = 0)

/-- Every register after `INIT`, from any state, a stopped one included (R260, R261, R267); the Display blank (D20); the inputs as the
environment has them, `CANCEL` released (log entry 14). -/
def Obligations.InitResetsEverything : Prop :=
  ∀ (s : State) (f : Font) (rom : List Byte), s.nextTurn = .init f (.bytes rom) → rom.length ≤ 3584 →
    ∃ t, step s = .next t ∧
      (∀ r, t.reg r = 0) ∧ t.i = 0 ∧ t.sp = 0 ∧ (∀ k, (h : k < 16) → t.stack[k] = 0) ∧ t.pc = 0x0200 ∧
      t.dt = 0 ∧ t.st = 0 ∧ t.run = .running ∧ t.fault = none ∧ t.buzzer = false ∧ t.events = [] ∧
      (∀ g, s.display = .reference g → ∃ g', t.display = .reference g' ∧ ∀ r c, g'.pixel r c = false) ∧
      t.cancel = false ∧ t.keys = s.keys ∧ t.rndIn = s.rndIn ∧ t.draws = s.draws ∧
      t.agenda = s.turnTaken.agenda ∧ t.rounds = s.turnTaken.rounds

/-- `INIT` refuses a ROM longer than 3584 bytes and one whose source fails, and the machine is not run (R218, R264, D15; log entry
15). -/
def Obligations.InitRefusesBadRoms : Prop :=
  ∀ (s : State) (f : Font),
    (∀ rom : List Byte, s.nextTurn = .init f (.bytes rom) → 3584 < rom.length → step s = .refused (.bootError .romTooLong)) ∧
    (s.nextTurn = .init f .readFailure → step s = .refused (.bootError .romReadFailure))

/-! ### Faults (60_exceptions.md) -/

/-- The instructions' own faults, each with its condition, its information word and no effect but the record and RUN (R210, R211,
R213; D3, D4, D8, D18). -/
def Obligations.InstructionFaultsArePrecise : Prop :=
  ∀ s : State,
    (s.sp.toNat = 0 → ∃ t, exec .ret s = .next t ∧ Raised s t .stackUnderflow 0) ∧
    (∀ nnn, s.sp.toNat = 16 → ∃ t, exec (.call nnn) s = .next t ∧ Raised s t .stackOverflow 16) ∧
    (∀ x y n, 0 < n.toNat → 0xFFF < s.i.toNat + n.toNat - 1 →
      ∃ t, exec (.drw x y n) s = .next t ∧ Raised s t .memoryBounds (max s.i.toNat 0x1000)) ∧
    (∀ x, 0xFFF < s.i.toNat + 2 →
      ∃ t, exec (.ldBVx x) s = .next t ∧ Raised s t .memoryBounds (max s.i.toNat 0x1000)) ∧
    (∀ x : Reg, 0xFFF < s.i.toNat + x.val →
      (∃ t, exec (.ldMemVx x) s = .next t ∧ Raised s t .memoryBounds (max s.i.toNat 0x1000)) ∧
      (∃ t, exec (.ldVxMem x) s = .next t ∧ Raised s t .memoryBounds (max s.i.toNat 0x1000))) ∧
    (∀ x, 15 < (s.reg x).toNat →
      (∃ t, exec (.skp x) s = .next t ∧ Raised s t .keyIndexOutOfRange (s.reg x).toNat) ∧
      (∃ t, exec (.sknp x) s = .next t ∧ Raised s t .keyIndexOutOfRange (s.reg x).toNat))

/-- The model's choice (log entry 10): where SP is above 16, a state no run reaches (R27), 2nnn and 00EE stop by name. -/
def Obligations.MissingStackEntryStops : Prop :=
  ∀ s : State, 16 < s.sp.toNat →
    exec .ret s = .fault (.noStackEntry s.sp) ∧ ∀ nnn, exec (.call nnn) s = .fault (.noStackEntry s.sp)

/-- Every instruction, on every operand, in every state with SP within its range, answers a next state: none stops the machine
(R27, R210: a fault of the spec is a next state). -/
def Obligations.EveryInstructionAnswersNext : Prop :=
  ∀ (i : Instr) (s : State), s.sp.toNat ≤ 16 → ∃ t, exec i s = .next t

/-! ### Control flow (41_flow.md) -/

/-- 0nnn and 1nnn set PC to nnn and change nothing else; their encodings (R131, R132). -/
def Obligations.JumpsGoToTheirAddress : Prop :=
  (∀ nnn : Addr, nnn ≠ 0x0E0 → nnn ≠ 0x0EE → decodeWord (wordNNN 0x0 nnn) = some (.sys nnn)) ∧
  (∀ nnn : Addr, decodeWord (wordNNN 0x1 nnn) = some (.jp nnn)) ∧
  ∀ (s : State) (nnn : Addr),
    (∃ t, exec (.sys nnn) s = .next t ∧ t.pc.toNat = nnn.toNat ∧ Frame noReg noByte [] s t) ∧
    (∃ t, exec (.jp nnn) s = .next t ∧ t.pc.toNat = nnn.toNat ∧ Frame noReg noByte [] s t)

/-- Bnnn sets PC to nnn + V0, not reduced to 12 bits and never wrapping (R134, D17). -/
def Obligations.JumpV0AddsWithoutMask : Prop :=
  ∀ (s : State) (nnn : Addr),
    ∃ t, exec (.jpV0 nnn) s = .next t ∧ t.pc.toNat = nnn.toNat + (s.reg 0).toNat ∧ Frame noReg noByte [] s t

/-- 2nnn with a free entry pushes the address of the next instruction, a + 2, and jumps (R133, D2); the other entries stay. -/
def Obligations.CallPushesReturnAddress : Prop :=
  ∀ (s : State) (nnn : Addr) (h : s.sp.toNat < 16),
    ∃ t, exec (.call nnn) s = .next t ∧ t.pc.toNat = nnn.toNat ∧ t.sp.toNat = s.sp.toNat + 1 ∧
      t.stack[s.sp.toNat] = s.pc + 2 ∧
      (∀ k, (hk : k < 16) → k ≠ s.sp.toNat → t.stack[k] = s.stack[k]) ∧
      Frame noReg noByte [.callStack] s t

/-- 00EE with a live entry sets PC to the top of the stack, with no advance, and drops it; the entry keeps its value (R130). -/
def Obligations.ReturnPopsTheTop : Prop :=
  ∀ (s : State) (h : 0 < s.sp.toNat ∧ s.sp.toNat ≤ 16),
    ∃ t, exec .ret s = .next t ∧ t.pc = s.stack[s.sp.toNat - 1] ∧ t.sp.toNat = s.sp.toNat - 1 ∧ t.stack = s.stack ∧
      Frame noReg noByte [.callStack] s t

/-- A return lands on the instruction after its call whatever ran between, if that left SP and the stack as the call did; and nested
calls up to depth 16 round-trip exactly (R130, R133, the source's S5; C1, D2). -/
def Obligations.CallsAndReturnsRoundTrip : Prop :=
  (∀ (s : State) (nnn : Addr), s.sp.toNat < 16 →
    ∃ t, exec (.call nnn) s = .next t ∧
      ∀ u : State, u.sp = t.sp → u.stack = t.stack → ∃ w, exec .ret u = .next w ∧ w.pc = s.pc + 2 ∧ w.sp = s.sp) ∧
  (∀ (s : State) (targets : List Addr), s.sp.toNat + targets.length ≤ 16 →
    ∃ t u, execAll (targets.map .call) s = .next t ∧ t.sp.toNat = s.sp.toNat + targets.length ∧
      execAll (List.replicate targets.length .ret) t = .next u ∧ u.sp = s.sp ∧
      (targets ≠ [] → u.pc = s.pc + 2) ∧
      (∀ k, (hk : k < 16) → k < s.sp.toNat → u.stack[k] = s.stack[k]) ∧
      Frame noReg noByte [.callStack] s u)

/-! ### Skips (42_skip.md) -/

/-- The four register skips: PC + 4 where the condition holds, PC + 2 where it does not, nothing else; their encodings, and that 5xyN
and 9xyN with N other than 0 are none (R140 to R143). -/
def Obligations.RegisterSkips : Prop :=
  (∀ x kk, decodeWord (wordXKK 0x3 x kk) = some (.seImm x kk) ∧ decodeWord (wordXKK 0x4 x kk) = some (.sneImm x kk)) ∧
  (∀ x y, decodeWord (wordXYN 0x5 x y 0x0) = some (.seReg x y) ∧ decodeWord (wordXYN 0x9 x y 0x0) = some (.sneReg x y)) ∧
  (∀ x y n, n ≠ 0x0 → decodeWord (wordXYN 0x5 x y n) = none ∧ decodeWord (wordXYN 0x9 x y n) = none) ∧
  ∀ (s : State) (x y : Reg) (kk : Byte),
    (∃ t, exec (.seImm x kk) s = .next t ∧ t.pc = s.pc + (if s.reg x = kk then 4 else 2) ∧ Frame noReg noByte [] s t) ∧
    (∃ t, exec (.sneImm x kk) s = .next t ∧ t.pc = s.pc + (if s.reg x ≠ kk then 4 else 2) ∧ Frame noReg noByte [] s t) ∧
    (∃ t, exec (.seReg x y) s = .next t ∧ t.pc = s.pc + (if s.reg x = s.reg y then 4 else 2) ∧ Frame noReg noByte [] s t) ∧
    (∃ t, exec (.sneReg x y) s = .next t ∧ t.pc = s.pc + (if s.reg x ≠ s.reg y then 4 else 2) ∧ Frame noReg noByte [] s t)

/-! ### Loads and arithmetic (43_alu.md) -/

/-- 6xkk, 7xkk, 8xy0, 8xy1, 8xy2, 8xy3: the value of Vx, and nothing else but PC; VF is no flag of theirs; their encodings (R150 to
R155). -/
def Obligations.LoadsAddImmediateAndLogic : Prop :=
  (∀ x kk, decodeWord (wordXKK 0x6 x kk) = some (.ldImm x kk) ∧ decodeWord (wordXKK 0x7 x kk) = some (.addImm x kk)) ∧
  (∀ x y, decodeWord (wordXYN 0x8 x y 0x0) = some (.ldReg x y) ∧ decodeWord (wordXYN 0x8 x y 0x1) = some (.orReg x y) ∧
    decodeWord (wordXYN 0x8 x y 0x2) = some (.andReg x y) ∧ decodeWord (wordXYN 0x8 x y 0x3) = some (.xorReg x y)) ∧
  ∀ (s : State) (x y : Reg) (kk : Byte),
    (∃ t, exec (.ldImm x kk) s = .next t ∧ t.reg x = kk ∧ t.pc = s.pc + 2 ∧ Frame (· = x) noByte [] s t) ∧
    (∃ t, exec (.addImm x kk) s = .next t ∧ (t.reg x).toNat = ((s.reg x).toNat + kk.toNat) % 256 ∧ t.pc = s.pc + 2 ∧
      Frame (· = x) noByte [] s t) ∧
    (∃ t, exec (.ldReg x y) s = .next t ∧ t.reg x = s.reg y ∧ t.pc = s.pc + 2 ∧ Frame (· = x) noByte [] s t) ∧
    (∃ t, exec (.orReg x y) s = .next t ∧
      (∀ b, (t.reg x).getLsbD b = ((s.reg x).getLsbD b || (s.reg y).getLsbD b)) ∧ t.pc = s.pc + 2 ∧
      Frame (· = x) noByte [] s t) ∧
    (∃ t, exec (.andReg x y) s = .next t ∧
      (∀ b, (t.reg x).getLsbD b = ((s.reg x).getLsbD b && (s.reg y).getLsbD b)) ∧ t.pc = s.pc + 2 ∧
      Frame (· = x) noByte [] s t) ∧
    (∃ t, exec (.xorReg x y) s = .next t ∧
      (∀ b, (t.reg x).getLsbD b = ((s.reg x).getLsbD b ^^ (s.reg y).getLsbD b)) ∧ t.pc = s.pc + 2 ∧
      Frame (· = x) noByte [] s t)

/-- 8xy4: Vx the sum modulo 256, VF the carry; with x = F the carry is what VF keeps, by the order of writes of D7 (R156, R161; log
entry 13); its encoding. -/
def Obligations.AddRegistersWithCarry : Prop :=
  (∀ x y, decodeWord (wordXYN 0x8 x y 0x4) = some (.addReg x y)) ∧
  ∀ (s : State) (x y : Reg),
    ∃ t, exec (.addReg x y) s = .next t ∧
      (x ≠ VF → (t.reg x).toNat = ((s.reg x).toNat + (s.reg y).toNat) % 256) ∧
      (t.reg VF).toNat = (if (s.reg x).toNat + (s.reg y).toNat > 255 then 1 else 0) ∧
      t.pc = s.pc + 2 ∧ Frame (fun r => r = x ∨ r = VF) noByte [] s t

/-- 8xy5 and 8xy7 where neither field names VF: the wrapped difference, and VF = 1 exactly where the first operand is strictly
greater (R157, R159, R162). The forms that name VF are `SubtractionsNamingVF`. -/
def Obligations.SubtractionsWithGreaterFlag : Prop :=
  ∀ (s : State) (x y : Reg), x ≠ VF → y ≠ VF →
    (∃ t, exec (.sub x y) s = .next t ∧ (t.reg x).toNat = (256 + (s.reg x).toNat - (s.reg y).toNat) % 256 ∧
      (t.reg VF).toNat = (if (s.reg x).toNat > (s.reg y).toNat then 1 else 0) ∧
      t.pc = s.pc + 2 ∧ Frame (fun r => r = x ∨ r = VF) noByte [] s t) ∧
    (∃ t, exec (.subn x y) s = .next t ∧ (t.reg x).toNat = (256 + (s.reg y).toNat - (s.reg x).toNat) % 256 ∧
      (t.reg VF).toNat = (if (s.reg y).toNat > (s.reg x).toNat then 1 else 0) ∧
      t.pc = s.pc + 2 ∧ Frame (fun r => r = x ∨ r = VF) noByte [] s t)

/-- 8xy5 and 8xy7 where a field names VF: the spec's reading D7 (R157, R159, R161; log entry 13), the flag first and the difference
from the registers as the flag left them. -/
def Obligations.SubtractionsNamingVF : Prop :=
  ∀ (s : State) (r : Reg), r ≠ VF →
    (∃ t, exec (.sub VF r) s = .next t ∧
      (t.reg VF).toNat =
        (256 + (if (s.reg VF).toNat > (s.reg r).toNat then 1 else 0) - (s.reg r).toNat) % 256 ∧
      t.pc = s.pc + 2 ∧ Frame (· = VF) noByte [] s t) ∧
    (∃ t, exec (.sub r VF) s = .next t ∧
      (t.reg VF).toNat = (if (s.reg r).toNat > (s.reg VF).toNat then 1 else 0) ∧
      (t.reg r).toNat = (256 + (s.reg r).toNat - (if (s.reg r).toNat > (s.reg VF).toNat then 1 else 0)) % 256 ∧
      t.pc = s.pc + 2 ∧ Frame (fun q => q = r ∨ q = VF) noByte [] s t) ∧
    (∃ t, exec (.sub VF VF) s = .next t ∧ (t.reg VF).toNat = 0 ∧ t.pc = s.pc + 2 ∧ Frame (· = VF) noByte [] s t) ∧
    (∃ t, exec (.subn VF r) s = .next t ∧
      (t.reg VF).toNat =
        (256 + (s.reg r).toNat - (if (s.reg r).toNat > (s.reg VF).toNat then 1 else 0)) % 256 ∧
      t.pc = s.pc + 2 ∧ Frame (· = VF) noByte [] s t) ∧
    (∃ t, exec (.subn r VF) s = .next t ∧
      (t.reg VF).toNat = (if (s.reg VF).toNat > (s.reg r).toNat then 1 else 0) ∧
      (t.reg r).toNat = (256 + (if (s.reg VF).toNat > (s.reg r).toNat then 1 else 0) - (s.reg r).toNat) % 256 ∧
      t.pc = s.pc + 2 ∧ Frame (fun q => q = r ∨ q = VF) noByte [] s t) ∧
    (∃ t, exec (.subn VF VF) s = .next t ∧ (t.reg VF).toNat = 0 ∧ t.pc = s.pc + 2 ∧ Frame (· = VF) noByte [] s t)

/-- 8xy6 and 8xyE where x is not VF: the shift by one, VF the bit shifted out, y ignored (R158, R160, R162, R88). -/
def Obligations.ShiftsOutToVF : Prop :=
  ∀ (s : State) (x y : Reg), x ≠ VF →
    (∃ t, exec (.shr x y) s = .next t ∧ (t.reg x).toNat = (s.reg x).toNat / 2 ∧ (t.reg VF).toNat = (s.reg x).toNat % 2 ∧
      t.pc = s.pc + 2 ∧ Frame (fun r => r = x ∨ r = VF) noByte [] s t) ∧
    (∃ t, exec (.shl x y) s = .next t ∧ (t.reg x).toNat = (2 * (s.reg x).toNat) % 256 ∧
      (t.reg VF).toNat = (s.reg x).toNat / 128 ∧
      t.pc = s.pc + 2 ∧ Frame (fun r => r = x ∨ r = VF) noByte [] s t)

/-- 8xy6 and 8xyE with x = F, by the spec's reading D7 (R158, R160, R161; log entry 13): VF ends 0, or twice its old bit 7. -/
def Obligations.ShiftsNamingVF : Prop :=
  ∀ (s : State) (y : Reg),
    (∃ t, exec (.shr VF y) s = .next t ∧ (t.reg VF).toNat = 0 ∧ t.pc = s.pc + 2 ∧ Frame (· = VF) noByte [] s t) ∧
    (∃ t, exec (.shl VF y) s = .next t ∧ (t.reg VF).toNat = 2 * ((s.reg VF).toNat / 128) ∧ t.pc = s.pc + 2 ∧
      Frame (· = VF) noByte [] s t)

/-! ### Index register and memory (44_index_memory.md) -/

/-- Annn loads the 12-bit immediate into I, the upper four bits zero; its encoding (R170). -/
def Obligations.LoadIndexImmediate : Prop :=
  (∀ nnn : Addr, decodeWord (wordNNN 0xA nnn) = some (.ldI nnn)) ∧
  ∀ (s : State) (nnn : Addr),
    ∃ t, exec (.ldI nnn) s = .next t ∧ t.i.toNat = nnn.toNat ∧ t.pc = s.pc + 2 ∧ Frame noReg noByte [.index] s t

/-- Fx1E adds Vx to I modulo 65536 with no flag; Fx29 sets I to 5*Vx with no masking (R171, R172; D16, D17). -/
def Obligations.IndexSumsAndGlyphs : Prop :=
  ∀ (s : State) (x : Reg),
    (∃ t, exec (.addIVx x) s = .next t ∧ t.i.toNat = (s.i.toNat + (s.reg x).toNat) % 65536 ∧ t.pc = s.pc + 2 ∧
      Frame noReg noByte [.index] s t) ∧
    (∃ t, exec (.ldFVx x) s = .next t ∧ t.i.toNat = 5 * (s.reg x).toNat ∧ t.pc = s.pc + 2 ∧
      Frame noReg noByte [.index] s t)

/-- Fx33 in bounds stores the hundreds, tens and ones of Vx at I, I+1, I+2, and every other byte, every register and I stay (R173,
R176; D23). -/
def Obligations.StoreDecimalDigits : Prop :=
  ∀ (s : State) (x : Reg), s.i.toNat + 2 ≤ 0xFFF →
    ∃ t, exec (.ldBVx x) s = .next t ∧
      (t.byteAt (s.ea 0)).toNat = (s.reg x).toNat / 100 ∧
      (t.byteAt (s.ea 1)).toNat = (s.reg x).toNat / 10 % 10 ∧
      (t.byteAt (s.ea 2)).toNat = (s.reg x).toNat % 10 ∧
      t.pc = s.pc + 2 ∧ Frame noReg (fun a => s.ea 0 ≤ a ∧ a ≤ s.ea 2) [] s t

/-- Fx55 in bounds stores V0..Vx at I..I+x, and every other byte, every register and I stay (R174, R176; C7, D23). -/
def Obligations.StoreRegisterRange : Prop :=
  ∀ (s : State) (x : Reg), s.i.toNat + x.val ≤ 0xFFF →
    ∃ t, exec (.ldMemVx x) s = .next t ∧ (∀ k : Reg, k ≤ x → t.byteAt (s.ea k) = s.reg k) ∧
      t.pc = s.pc + 2 ∧ Frame noReg (fun a => s.ea 0 ≤ a ∧ a ≤ s.ea x) [] s t

/-- Fx65 in bounds loads V0..Vx from I..I+x, and the other registers, I and memory stay (R175, R176; C7, D23). -/
def Obligations.LoadRegisterRange : Prop :=
  ∀ (s : State) (x : Reg), s.i.toNat + x.val ≤ 0xFFF →
    ∃ t, exec (.ldVxMem x) s = .next t ∧ (∀ k : Reg, k ≤ x → t.reg k = s.byteAt (s.ea k)) ∧
      t.pc = s.pc + 2 ∧ Frame (· ≤ x) noByte [] s t

/-- A range stored by Fx55 and loaded by Fx65, at the same I from the same memory, gives the registers back, whatever they held in
between (R174, R175, R62). -/
def Obligations.StoreThenLoadRestores : Prop :=
  ∀ (s : State) (x : Reg), s.i.toNat + x.val ≤ 0xFFF →
    ∃ t, exec (.ldMemVx x) s = .next t ∧
      ∀ u : State, u.i = s.i → u.mem = t.mem →
        ∃ w, exec (.ldVxMem x) u = .next w ∧ ∀ k : Reg, if k ≤ x then w.reg k = s.reg k else w.reg k = u.reg k

/-- Bytes stored by Fx55 are the bytes the cycle fetches at their address and decodes, high byte first, with nothing needed in between;
and the CPU's step there runs the instruction they are (R52, R64). -/
def Obligations.StoredBytesAreFetched : Prop :=
  ∀ (s : State) (x : Reg), s.i.toNat + x.val ≤ 0xFFF →
    ∃ t, exec (.ldMemVx x) s = .next t ∧
      ∀ (u : State) (k l : Reg), u.mem = t.mem → l.val = k.val + 1 → l ≤ x → u.pc.toNat = s.ea k →
        u.fetchBytes = [s.reg k, s.reg l] ∧ u.fetchWord.toNat = (s.reg k).toNat * 256 + (s.reg l).toNat ∧
        ∀ i : Instr, decode [s.reg k, s.reg l] = .ok (i, []) →
          u.nextTurn = .cpu → (u.run = .running ∨ u.run = .waitKey) → u.cancel = false → u.pc.toNat % 2 = 0 →
          step u = exec i u.turnTaken

/-! ### Display and random (45_display_random.md) -/

/-- 00E0 calls `Display.clear()` once: the event is recorded, the reference Display's pixels are all 0, and nothing of the core but PC
changes; its encoding (R181, R185). That a Display of another kind is as it was is the model's choice (R240; log entry 5). -/
def Obligations.ClearScreen : Prop :=
  decodeWord 0x00E0 = some .cls ∧
  ∀ s : State,
    ∃ t, exec .cls s = .next t ∧ t.events = s.events ++ [.displayClear] ∧
      (∀ g, s.display = .reference g → ∃ g', t.display = .reference g' ∧ ∀ r c, g'.pixel r c = false) ∧
      ((∀ g, s.display ≠ .reference g) → t.display = s.display) ∧
      t.pc = s.pc + 2 ∧ Frame noReg noByte [.display, .events] s t

/-- Dxyn in bounds (or with n = 0, whatever I holds) draws the n bytes at I at the column and row the registers held, records the event
and writes the reply to VF, 0 or 1. With n = 0 every Display replies 0 and stays as it was; else a null Display replies 0, an external
one the next reply supplied, and with none supplied one about which nothing is said, counted as a draw (R182, R240; D4, D20; log
entry 5). -/
def Obligations.DrawReportsCollision : Prop :=
  ∀ (s : State) (x y : Reg) (n : Nibble), n.toNat = 0 ∨ s.i.toNat + n.toNat - 1 ≤ 0xFFF →
    ∃ (t : State) (sprite : List Byte) (free c : Bool),
      exec (.drw x y n) s = .next t ∧
      sprite.length = n.toNat ∧ (∀ k, (hk : k < sprite.length) → sprite[k] = s.byteAt (s.ea k)) ∧
      s.display.draw free (s.reg x) (s.reg y) sprite = (t.display, c) ∧
      (n.toNat = 0 → c = false ∧ t.display = s.display) ∧
      (s.display = .null → c = false) ∧ (∀ r rs, s.display = .external (r :: rs) → 0 < n.toNat → c = r ∧ t.display = .external rs) ∧
      t.draws = (if s.display = .external [] ∧ 0 < n.toNat then s.draws + 1 else s.draws) ∧
      t.reg VF = (if c then 1 else 0) ∧
      t.events = s.events ++ [.displayDraw (s.reg x) (s.reg y) sprite c] ∧
      t.pc = s.pc + 2 ∧ Frame (· = VF) noByte [.display, .events, .draws] s t

/-- The reference Display: each sprite bit, bit 7 leftmost, is XORed into its pixel on the 64 x 32 torus, and every other pixel stays;
for sprites of up to 32 rows, which no Dxyn exceeds (R183). -/
def Obligations.SpritePixelsXor : Prop :=
  ∀ (g : Grid) (x y : Byte) (sprite : List Byte), sprite.length ≤ 32 →
    (∀ (row : Fin 32) (col : Fin 64) (r c : Nat) (hr : r < sprite.length), c < 8 →
      row.val = (y.toNat + r) % 32 → col.val = (x.toNat + c) % 64 →
      (g.draw x y sprite).1.pixel row col = (g.pixel row col ^^ sprite[r].getLsbD (7 - c))) ∧
    (∀ (row : Fin 32) (col : Fin 64),
      (∀ r c, r < sprite.length → c < 8 → ¬ (row.val = (y.toNat + r) % 32 ∧ col.val = (x.toNat + c) % 64)) →
      (g.draw x y sprite).1.pixel row col = g.pixel row col)

/-- The reference Display replies a collision exactly where a 1 bit of the sprite lies over a pixel that was lit (R184). -/
def Obligations.CollisionExactlyWhereLit : Prop :=
  ∀ (g : Grid) (x y : Byte) (sprite : List Byte), sprite.length ≤ 32 →
    ((g.draw x y sprite).2 = true ↔
      ∃ (row : Fin 32) (col : Fin 64) (r c : Nat) (hr : r < sprite.length), c < 8 ∧
        row.val = (y.toNat + r) % 32 ∧ col.val = (x.toNat + c) % 64 ∧
        sprite[r].getLsbD (7 - c) = true ∧ g.pixel row col = true)

/-- Drawing the same sprite twice at the same place restores the grid, and the second draw collides exactly where the first lit a pixel
(R184; C3). -/
def Obligations.DrawingTwiceRestores : Prop :=
  ∀ (g : Grid) (x y : Byte) (sprite : List Byte), sprite.length ≤ 32 →
    ((g.draw x y sprite).1.draw x y sprite).1 = g ∧
    (((g.draw x y sprite).1.draw x y sprite).2 = true ↔
      ∃ row col, g.pixel row col = false ∧ (g.draw x y sprite).1.pixel row col = true)

/-- Cxkk: Vx is one sample of the random source masked by kk; a supplied sample is the next one of the stream, and with none supplied
one free value is taken, about which nothing is said (R186, R187, D19); its encoding. The queue of supplied samples and the counter are
the model's choice (log entry 3). -/
def Obligations.RandomByteMasked : Prop :=
  (∀ x kk, decodeWord (wordXKK 0xC x kk) = some (.rnd x kk)) ∧
  ∀ (s : State) (x : Reg) (kk : Byte),
    ∃ (t : State) (r : Byte), exec (.rnd x kk) s = .next t ∧
      (∀ b, (t.reg x).getLsbD b = (r.getLsbD b && kk.getLsbD b)) ∧
      (∀ q qs, s.rndIn = q :: qs → r = q ∧ t.rndIn = qs ∧ t.draws = s.draws) ∧
      (s.rndIn = [] → t.rndIn = [] ∧ t.draws = s.draws + 1) ∧
      t.pc = s.pc + 2 ∧ Frame (· = x) noByte [.random, .draws] s t

/-! ### Keyboard (46_keyboard.md) -/

/-- Ex9E and ExA1 on a key number 0 to 15: PC + 4 where the key is (is not) pressed, else PC + 2, nothing else (R191, R192). A larger
number is `InstructionFaultsArePrecise`. -/
def Obligations.KeySkips : Prop :=
  ∀ (s : State) (x : Reg), (s.reg x).toNat ≤ 15 →
    (∃ t, exec (.skp x) s = .next t ∧
      t.pc = s.pc + (if s.keys.getLsbD (s.reg x).toNat = true then 4 else 2) ∧ Frame noReg noByte [] s t) ∧
    (∃ t, exec (.sknp x) s = .next t ∧
      t.pc = s.pc + (if s.keys.getLsbD (s.reg x).toNat = true then 2 else 4) ∧ Frame noReg noByte [] s t)

/-- Fx0A: with no key pressed, RUN = WAITKEY and nothing else changes; with a key pressed, Vx is the number of some pressed key, for
whichever draw, RUN = RUNNING and PC advances (R193, R196; D9; log entry 4). -/
def Obligations.WaitForKey : Prop :=
  ∀ (s : State) (x : Reg),
    (s.keys = 0 →
      ∃ t, exec (.ldVxK x) s = .next t ∧ t.run = .waitKey ∧ t.pc = s.pc ∧ Frame noReg noByte [.runState] s t) ∧
    (s.keys ≠ 0 →
      ∃ t, exec (.ldVxK x) s = .next t ∧ (t.reg x).toNat < 16 ∧ s.keys.getLsbD (t.reg x).toNat = true ∧
        t.run = .running ∧ t.pc = s.pc + 2 ∧ Frame (· = x) noByte [.runState, .draws] s t)

/-! ### Timers (47_timer_ops.md) -/

/-- Fx07 copies DT into Vx and leaves DT; Fx15 copies Vx into DT and fires nothing; their encodings (R200, R201). -/
def Obligations.DelayTimerAccess : Prop :=
  (∀ x, decodeWord (wordXKK 0xF x 0x07) = some (.ldVxDT x) ∧ decodeWord (wordXKK 0xF x 0x15) = some (.ldDTVx x)) ∧
  ∀ (s : State) (x : Reg),
    (∃ t, exec (.ldVxDT x) s = .next t ∧ t.reg x = s.dt ∧ t.pc = s.pc + 2 ∧ Frame (· = x) noByte [] s t) ∧
    (∃ t, exec (.ldDTVx x) s = .next t ∧ t.dt = s.reg x ∧ t.pc = s.pc + 2 ∧ Frame noReg noByte [.delayTimer] s t)

/-- Fx18 copies Vx into ST and calls the Buzzer exactly where the value crosses between zero and nonzero (R202, R233; C2, D11). -/
def Obligations.SoundTimerSet : Prop :=
  ∀ (s : State) (x : Reg),
    ∃ t, exec (.ldSTVx x) s = .next t ∧ t.st = s.reg x ∧
      (s.st.toNat = 0 → 0 < (s.reg x).toNat → t.events = s.events ++ [.buzzerStart] ∧ t.buzzer = true) ∧
      (0 < s.st.toNat → (s.reg x).toNat = 0 → t.events = s.events ++ [.buzzerStop] ∧ t.buzzer = false) ∧
      ((s.st.toNat = 0 ↔ (s.reg x).toNat = 0) → t.events = s.events ∧ t.buzzer = s.buzzer) ∧
      t.pc = s.pc + 2 ∧ Frame noReg noByte [.soundTimer, .buzzer, .events] s t

/-! ### Rules about the whole machine -/

/-- Which instructions write which state: memory only Fx33 and Fx55 (R51), I only Annn, Fx1E, Fx29 (R26, R176), SP only 2nnn and 00EE
(R27), the stack only 2nnn (R28), DT only Fx15, ST and the Buzzer only Fx18 (R30, R31), the Display only 00E0 and Dxyn (R180), the random
stream only Cxkk; and no instruction writes KEYS, CANCEL or the turns to come (R39, R190). -/
def Obligations.WritersOfEachState : Prop :=
  ∀ (i : Instr) (s t : State), exec i s = .next t →
    ((∀ x, i ≠ .ldBVx x ∧ i ≠ .ldMemVx x) → ∀ a, t.byteAt a = s.byteAt a) ∧
    ((∀ n, i ≠ .ldI n) → (∀ x, i ≠ .addIVx x ∧ i ≠ .ldFVx x) → t.i = s.i) ∧
    (i ≠ .ret → (∀ n, i ≠ .call n) → t.sp = s.sp) ∧
    ((∀ n, i ≠ .call n) → t.stack = s.stack) ∧
    ((∀ x, i ≠ .ldDTVx x) → t.dt = s.dt) ∧
    ((∀ x, i ≠ .ldSTVx x) → t.st = s.st ∧ t.buzzer = s.buzzer) ∧
    (i ≠ .cls → (∀ x y n, i ≠ .drw x y n) → t.display = s.display) ∧
    ((∀ x kk, i ≠ .rnd x kk) → t.rndIn = s.rndIn) ∧
    t.keys = s.keys ∧ t.cancel = s.cancel ∧ t.agenda = s.agenda ∧ t.rounds = s.rounds

/-- A register changes only where the instruction names it as its destination or, for VF, writes VF as a flag; and a flag written to a
VF that is no destination is 0 or 1 wherever the instruction completes (R22, R163). -/
def Obligations.WritersOfRegisters : Prop :=
  ∀ (i : Instr) (s t : State), exec i s = .next t →
    (∀ r, namesDest i r = false → (r = VF → writesFlag i = false) → t.reg r = s.reg r) ∧
    (writesFlag i = true → namesDest i VF = false → t.run ≠ .faulted → t.reg VF = 0 ∨ t.reg VF = 1)

/-- ST and the Buzzer never reach the core: two states that differ only there (and in the events) execute any instruction alike, up to
there (R31, R214, R238). -/
def Obligations.SoundTimerInvisibleToCore : Prop :=
  ∀ (i : Instr) (s s' t : State), Agree [.soundTimer, .buzzer, .events] s s' → exec i s = .next t →
    ∃ t', exec i s' = .next t' ∧ Agree [.soundTimer, .buzzer, .events] t t'

/-- "it never reads a pixel": two states that differ only in the Display (and in the events) execute any instruction but Dxyn alike, up
to there (R180, R185). -/
def Obligations.DisplayInvisibleButForCollision : Prop :=
  ∀ (i : Instr) (s s' t : State), (∀ x y n, i ≠ .drw x y n) → Agree [.display, .events] s s' → exec i s = .next t →
    ∃ t', exec i s' = .next t' ∧ Agree [.display, .events] t t'

/-- A tick of the delay timer may fall before or after any instruction that is no operation on it, with the same outcome; and the
ticks of the two timers commute (R119, R234, R237). -/
def Obligations.TicksCommute : Prop :=
  (∀ (i : Instr) (s t : State), (∀ x, i ≠ .ldVxDT x ∧ i ≠ .ldDTVx x) → exec i s = .next t →
    exec i s.dtTick = .next t.dtTick) ∧
  (∀ s : State, s.dtTick.stTick = s.stTick.dtTick)

/-! ### Invariants of every step -/

/-- Every step keeps memory in its canonical form, so that equal memories are equal data. -/
def Obligations.StepKeepsMemoryCanonical : Prop :=
  ∀ s t : State, MemoryInv s → step s = .next t → MemoryInv t

/-- Every step keeps SP within 0..16, the live stack entries even and within memory or at its end, and PC within 0x10FE (R25, R27,
R28). -/
def Obligations.StepKeepsControlState : Prop :=
  ∀ s t : State, ControlInv s → step s = .next t → ControlInv t

/-- Every step keeps the Buzzer's events alternating, beginning with a start, and the Buzzer on exactly when ST > 0 (R235). -/
def Obligations.StepKeepsBuzzerAlternation : Prop :=
  ∀ s t : State, BuzzerInv s → step s = .next t → BuzzerInv t

/-- Every step keeps: the fault record is written exactly in FAULTED and holds the PC that stands there (R35, R211); in WAITKEY the
instruction at PC is Fx0A (R34). -/
def Obligations.StepKeepsRunState : Prop :=
  ∀ s t : State, FaultInv s → WaitKeyInv s → step s = .next t → FaultInv t ∧ WaitKeyInv t

/-- From a state that meets the control invariant, with no failing `INIT` to come next, the machine has a next state, and it meets the
invariant again: no fault or refusal of the model is ever reached (R27, R210, R211, R266). -/
def Obligations.StepNeverStops : Prop :=
  ∀ s : State, ControlInv s → BootOk s → ∃ t, step s = .next t ∧ ControlInv t

/-- The invariants hold at reset. -/
def Obligations.InvariantsHoldAtReset : Prop :=
  MemoryInv State.reset ∧ ControlInv State.reset ∧ BuzzerInv State.reset ∧ FaultInv State.reset ∧ WaitKeyInv State.reset

/-- The invariants hold after every `INIT` that boots, from any state, with any font and ROM (R260, R267). -/
def Obligations.InvariantsHoldAfterInit : Prop :=
  ∀ (s t : State) (f : Font) (rom : List Byte), s.nextTurn = .init f (.bytes rom) → step s = .next t →
    MemoryInv t ∧ ControlInv t ∧ BuzzerInv t ∧ FaultInv t ∧ WaitKeyInv t
end

