-- ==== Sys2Proof/Laws/Decode.lean ====
section
/-! SUPPORT. The decoder and the encoder: nibbles and bytes convert into each other without loss, and the operands of each format are
read back. -/

namespace Sys2Proof

theorem hi_append (a b : Nibble) : (a ++ b : Byte).extractLsb' 4 4 = a := by
  revert a b; decide

theorem lo_append (a b : Nibble) : (a ++ b : Byte).extractLsb' 0 4 = b := by
  revert a b; decide

theorem append_hi_lo (b : Byte) : (b.extractLsb' 4 4 ++ b.extractLsb' 0 4 : Byte) = b := by
  revert b; decide

theorem toNat_append_nibbles (a b : Nibble) : (a ++ b : Byte).toNat = a.toNat * 16 + b.toNat := by
  revert a b; decide

theorem toNat_append_bytes (a b : Byte) : (a ++ b : Word).toNat = a.toNat * 256 + b.toNat := by
  rw [BitVec.toNat_append, Nat.shiftLeft_eq, Nat.mul_comm, ← Nat.two_pow_add_eq_or_of_lt b.isLt]

theorem toNat_nnn (a b c : Nibble) : (a ++ b ++ c : Addr).toNat = a.toNat * 256 + b.toNat * 16 + c.toNat := by
  rw [BitVec.toNat_append, Nat.shiftLeft_eq, Nat.mul_comm, ← Nat.two_pow_add_eq_or_of_lt c.isLt,
    show (a ++ b : BitVec (4 + 4)).toNat = a.toNat * 16 + b.toNat from toNat_append_nibbles a b]
  omega

/-- The bytes of four nibbles split into those nibbles (R81, reversible). -/
@[simp] theorem ofBytes_bytes (n : Nibbles) : Nibbles.ofBytes n.byte0 n.byte1 = n := by
  simp only [Nibbles.ofBytes, Nibbles.byte0, Nibbles.byte1, hi_append, lo_append]

/-- The nibbles of two bytes recombine to those bytes (R81). -/
@[simp] theorem byte0_ofBytes (b0 b1 : Byte) : (Nibbles.ofBytes b0 b1).byte0 = b0 := append_hi_lo b0

@[simp] theorem byte1_ofBytes (b0 b1 : Byte) : (Nibbles.ofBytes b0 b1).byte1 = b1 := append_hi_lo b1

theorem word_ofBytes (b0 b1 : Byte) : (Nibbles.ofBytes b0 b1).word = b0 ++ b1 := by
  simp [Nibbles.word]

theorem hiByte_append (a b : Byte) : (a ++ b : Word).extractLsb' 8 8 = a := by
  apply BitVec.eq_of_toNat_eq
  have h := toNat_append_bytes a b
  simp only [BitVec.extractLsb'_toNat, h, Nat.shiftRight_eq_div_pow]
  omega

theorem loByte_append (a b : Byte) : (a ++ b : Word).extractLsb' 0 8 = b := by
  apply BitVec.eq_of_toNat_eq
  have h := toNat_append_bytes a b
  simp only [BitVec.extractLsb'_toNat, h, Nat.shiftRight_eq_div_pow]
  omega

theorem append_bytes (w : Word) : (w.extractLsb' 8 8 ++ w.extractLsb' 0 8 : Word) = w := by
  apply BitVec.eq_of_toNat_eq
  rw [toNat_append_bytes]
  simp only [BitVec.extractLsb'_toNat, Nat.shiftRight_eq_div_pow]
  omega

/-- A word decodes as its two bytes do. -/
@[simp] theorem decodeWord_bytes (b0 b1 : Byte) : decodeWord (b0 ++ b1) = dispatch (.ofBytes b0 b1) := by
  rw [decodeWord, hiByte_append, loByte_append]

/-- A word decodes as its four nibbles dispatch. -/
@[simp] theorem decodeWord_word (n : Nibbles) : decodeWord n.word = dispatch n := by
  rw [Nibbles.word, decodeWord_bytes, ofBytes_bytes]

/-- Every word is the word of four nibbles. -/
theorem exists_nibbles (w : Word) : ∃ n : Nibbles, w = n.word :=
  ⟨.ofBytes (w.extractLsb' 8 8) (w.extractLsb' 0 8), by rw [word_ofBytes, append_bytes]⟩

/-- The value of a word from its nibbles (R81). -/
theorem toNat_word (n : Nibbles) :
    n.word.toNat = n.o1.toNat * 4096 + n.o2.toNat * 256 + n.o3.toNat * 16 + n.o4.toNat := by
  rw [Nibbles.word, toNat_append_bytes, Nibbles.byte0, Nibbles.byte1, toNat_append_nibbles, toNat_append_nibbles]
  omega

/-- The bitwise AND of two words, nibble by nibble. -/
theorem word_and (n m : Nibbles) :
    n.word &&& m.word = Nibbles.word ⟨n.o1 &&& m.o1, n.o2 &&& m.o2, n.o3 &&& m.o3, n.o4 &&& m.o4⟩ := by
  simp only [Nibbles.word, Nibbles.byte0, Nibbles.byte1]
  rw [← BitVec.and_append, ← BitVec.and_append, ← BitVec.and_append]

/-- Words are equal exactly where their nibbles are. -/
theorem word_inj {n m : Nibbles} : n.word = m.word ↔ n = m := by
  refine ⟨fun h => ?_, fun h => h ▸ rfl⟩
  have h0 : n.byte0 = m.byte0 := by
    rw [← hiByte_append n.byte0 n.byte1, ← hiByte_append m.byte0 m.byte1]
    exact congrArg _ h
  have h1 : n.byte1 = m.byte1 := by
    rw [← loByte_append n.byte0 n.byte1, ← loByte_append m.byte0 m.byte1]
    exact congrArg _ h
  rw [← ofBytes_bytes n, ← ofBytes_bytes m, h0, h1]

/-- Whether a word fits a row, nibble by nibble. -/
theorem fits_word (k : Nat) (mask value n : Nibbles) :
    Row.fits ⟨k, mask.word, value.word⟩ n.word = true ↔
      n.o1 &&& mask.o1 = value.o1 ∧ n.o2 &&& mask.o2 = value.o2 ∧ n.o3 &&& mask.o3 = value.o3 ∧
        n.o4 &&& mask.o4 = value.o4 := by
  simp only [Row.fits, beq_iff_eq, word_and, word_inj]
  cases value
  simp

/-- Whether a word fits a row, read off the row's own digits. -/
theorem fits_iff (r : Row) (n : Nibbles) :
    r.fits n.word = true ↔
      n.o1 &&& r.mask.extractLsb' 12 4 = r.value.extractLsb' 12 4 ∧ n.o2 &&& r.mask.extractLsb' 8 4 = r.value.extractLsb' 8 4 ∧
        n.o3 &&& r.mask.extractLsb' 4 4 = r.value.extractLsb' 4 4 ∧ n.o4 &&& r.mask.extractLsb' 0 4 = r.value.extractLsb' 0 4 := by
  have h (w : Word) : w = Nibbles.word ⟨w.extractLsb' 12 4, w.extractLsb' 8 4, w.extractLsb' 4 4, w.extractLsb' 0 4⟩ := by
    apply BitVec.eq_of_toNat_eq
    rw [toNat_word]
    have := w.isLt
    simp only [BitVec.extractLsb'_toNat, Nat.shiftRight_eq_div_pow]
    omega
  obtain ⟨k, mask, value⟩ := r
  conv_lhs => rw [h mask, h value]
  exact fits_word k _ _ n

/-! ### Operands are read back -/

@[simp] theorem fmtNNN_nnn (o : Nibble) (a : Addr) : (fmtNNN o a).nnn = a := by
  apply BitVec.eq_of_toNat_eq
  rw [Nibbles.nnn, fmtNNN, toNat_nnn]
  simp only [BitVec.extractLsb'_toNat, Nat.shiftRight_eq_div_pow]
  omega

@[simp] theorem fmtXKK_kk (o : Nibble) (x : Reg) (kk : Byte) : (fmtXKK o x kk).kk = kk := append_hi_lo kk

@[simp] theorem fmtXKK_x (o : Nibble) (x : Reg) (kk : Byte) : (fmtXKK o x kk).x = x := rfl

@[simp] theorem fmtXYN_x (o : Nibble) (x y : Reg) (n : Nibble) : (fmtXYN o x y n).x = x := rfl

@[simp] theorem fmtXYN_y (o : Nibble) (x y : Reg) (n : Nibble) : (fmtXYN o x y n).y = y := rfl

@[simp] theorem fmtXYN_o4 (o : Nibble) (x y : Reg) (n : Nibble) : (fmtXYN o x y n).o4 = n := rfl

@[simp] theorem fmtNNN_o1 (o : Nibble) (a : Addr) : (fmtNNN o a).o1 = o := rfl

@[simp] theorem fmtXKK_o1 (o : Nibble) (x : Reg) (kk : Byte) : (fmtXKK o x kk).o1 = o := rfl

@[simp] theorem fmtXYN_o1 (o : Nibble) (x y : Reg) (n : Nibble) : (fmtXYN o x y n).o1 = o := rfl

/-- Four nibbles are the format NNN of their first and their address. -/
theorem fmtNNN_of (n : Nibbles) : fmtNNN n.o1 n.nnn = n := by
  obtain ⟨o1, o2, o3, o4⟩ := n
  have h := toNat_nnn o2 o3 o4
  have h2 := o2.isLt
  have h3 := o3.isLt
  have h4 := o4.isLt
  simp only [fmtNNN, Nibbles.nnn, Nibbles.mk.injEq, true_and]
  refine ⟨?_, ?_, ?_⟩ <;> apply BitVec.eq_of_toNat_eq <;>
    simp only [BitVec.extractLsb'_toNat, h, Nat.shiftRight_eq_div_pow] <;> omega

/-- Four nibbles are the format XKK of their first, their register and their byte. -/
theorem fmtXKK_of (n : Nibbles) : fmtXKK n.o1 n.x n.kk = n := by
  simp only [fmtXKK, Nibbles.x, Nibbles.kk, BitVec.ofFin_toFin, hi_append, lo_append]

/-- Four nibbles are the format XYN of themselves. -/
theorem fmtXYN_of (n : Nibbles) : fmtXYN n.o1 n.x n.y n.o4 = n := by
  simp only [fmtXYN, Nibbles.x, Nibbles.y, BitVec.ofFin_toFin]

end Sys2Proof
end

