-- ==== Sys2Proof/Laws/State.lean ====
section
/-! SUPPORT. One lemma per field per update of the state, each true by `rfl`, so that no later proof unfolds a record update; and what
`reg` reads after each. -/

namespace Sys2Proof.Machine

variable (s : State)

/-! ### `setReg` -/

@[simp] theorem setReg_v (r : Reg) (b : Byte) : (s.setReg r b).v = s.v.set r b := rfl
@[simp] theorem setReg_pc (r : Reg) (b : Byte) : (s.setReg r b).pc = s.pc := rfl
@[simp] theorem setReg_i (r : Reg) (b : Byte) : (s.setReg r b).i = s.i := rfl
@[simp] theorem setReg_sp (r : Reg) (b : Byte) : (s.setReg r b).sp = s.sp := rfl
@[simp] theorem setReg_stack (r : Reg) (b : Byte) : (s.setReg r b).stack = s.stack := rfl
@[simp] theorem setReg_dt (r : Reg) (b : Byte) : (s.setReg r b).dt = s.dt := rfl
@[simp] theorem setReg_st (r : Reg) (b : Byte) : (s.setReg r b).st = s.st := rfl
@[simp] theorem setReg_mem (r : Reg) (b : Byte) : (s.setReg r b).mem = s.mem := rfl
@[simp] theorem setReg_run (r : Reg) (b : Byte) : (s.setReg r b).run = s.run := rfl
@[simp] theorem setReg_fault (r : Reg) (b : Byte) : (s.setReg r b).fault = s.fault := rfl
@[simp] theorem setReg_display (r : Reg) (b : Byte) : (s.setReg r b).display = s.display := rfl
@[simp] theorem setReg_buzzer (r : Reg) (b : Byte) : (s.setReg r b).buzzer = s.buzzer := rfl
@[simp] theorem setReg_events (r : Reg) (b : Byte) : (s.setReg r b).events = s.events := rfl
@[simp] theorem setReg_keys (r : Reg) (b : Byte) : (s.setReg r b).keys = s.keys := rfl
@[simp] theorem setReg_rndIn (r : Reg) (b : Byte) : (s.setReg r b).rndIn = s.rndIn := rfl
@[simp] theorem setReg_cancel (r : Reg) (b : Byte) : (s.setReg r b).cancel = s.cancel := rfl
@[simp] theorem setReg_draws (r : Reg) (b : Byte) : (s.setReg r b).draws = s.draws := rfl
@[simp] theorem setReg_agenda (r : Reg) (b : Byte) : (s.setReg r b).agenda = s.agenda := rfl
@[simp] theorem setReg_rounds (r : Reg) (b : Byte) : (s.setReg r b).rounds = s.rounds := rfl

/-! ### `setRegs` -/

@[simp] theorem setRegs_v (v : Vector Byte 16) : (s.setRegs v).v = v := rfl
@[simp] theorem setRegs_pc (v : Vector Byte 16) : (s.setRegs v).pc = s.pc := rfl
@[simp] theorem setRegs_i (v : Vector Byte 16) : (s.setRegs v).i = s.i := rfl
@[simp] theorem setRegs_sp (v : Vector Byte 16) : (s.setRegs v).sp = s.sp := rfl
@[simp] theorem setRegs_stack (v : Vector Byte 16) : (s.setRegs v).stack = s.stack := rfl
@[simp] theorem setRegs_dt (v : Vector Byte 16) : (s.setRegs v).dt = s.dt := rfl
@[simp] theorem setRegs_st (v : Vector Byte 16) : (s.setRegs v).st = s.st := rfl
@[simp] theorem setRegs_mem (v : Vector Byte 16) : (s.setRegs v).mem = s.mem := rfl
@[simp] theorem setRegs_run (v : Vector Byte 16) : (s.setRegs v).run = s.run := rfl
@[simp] theorem setRegs_fault (v : Vector Byte 16) : (s.setRegs v).fault = s.fault := rfl
@[simp] theorem setRegs_display (v : Vector Byte 16) : (s.setRegs v).display = s.display := rfl
@[simp] theorem setRegs_buzzer (v : Vector Byte 16) : (s.setRegs v).buzzer = s.buzzer := rfl
@[simp] theorem setRegs_events (v : Vector Byte 16) : (s.setRegs v).events = s.events := rfl
@[simp] theorem setRegs_keys (v : Vector Byte 16) : (s.setRegs v).keys = s.keys := rfl
@[simp] theorem setRegs_rndIn (v : Vector Byte 16) : (s.setRegs v).rndIn = s.rndIn := rfl
@[simp] theorem setRegs_cancel (v : Vector Byte 16) : (s.setRegs v).cancel = s.cancel := rfl
@[simp] theorem setRegs_draws (v : Vector Byte 16) : (s.setRegs v).draws = s.draws := rfl
@[simp] theorem setRegs_agenda (v : Vector Byte 16) : (s.setRegs v).agenda = s.agenda := rfl
@[simp] theorem setRegs_rounds (v : Vector Byte 16) : (s.setRegs v).rounds = s.rounds := rfl

/-! ### `setIndex` -/

@[simp] theorem setIndex_v (w : Word) : (s.setIndex w).v = s.v := rfl
@[simp] theorem setIndex_pc (w : Word) : (s.setIndex w).pc = s.pc := rfl
@[simp] theorem setIndex_i (w : Word) : (s.setIndex w).i = w := rfl
@[simp] theorem setIndex_sp (w : Word) : (s.setIndex w).sp = s.sp := rfl
@[simp] theorem setIndex_stack (w : Word) : (s.setIndex w).stack = s.stack := rfl
@[simp] theorem setIndex_dt (w : Word) : (s.setIndex w).dt = s.dt := rfl
@[simp] theorem setIndex_st (w : Word) : (s.setIndex w).st = s.st := rfl
@[simp] theorem setIndex_mem (w : Word) : (s.setIndex w).mem = s.mem := rfl
@[simp] theorem setIndex_run (w : Word) : (s.setIndex w).run = s.run := rfl
@[simp] theorem setIndex_fault (w : Word) : (s.setIndex w).fault = s.fault := rfl
@[simp] theorem setIndex_display (w : Word) : (s.setIndex w).display = s.display := rfl
@[simp] theorem setIndex_buzzer (w : Word) : (s.setIndex w).buzzer = s.buzzer := rfl
@[simp] theorem setIndex_events (w : Word) : (s.setIndex w).events = s.events := rfl
@[simp] theorem setIndex_keys (w : Word) : (s.setIndex w).keys = s.keys := rfl
@[simp] theorem setIndex_rndIn (w : Word) : (s.setIndex w).rndIn = s.rndIn := rfl
@[simp] theorem setIndex_cancel (w : Word) : (s.setIndex w).cancel = s.cancel := rfl
@[simp] theorem setIndex_draws (w : Word) : (s.setIndex w).draws = s.draws := rfl
@[simp] theorem setIndex_agenda (w : Word) : (s.setIndex w).agenda = s.agenda := rfl
@[simp] theorem setIndex_rounds (w : Word) : (s.setIndex w).rounds = s.rounds := rfl
@[simp] theorem setIndex_reg (w : Word) (q : Reg) : (s.setIndex w).reg q = s.reg q := rfl

/-! ### `setMem` -/

@[simp] theorem setMem_v (m : Memory) : (s.setMem m).v = s.v := rfl
@[simp] theorem setMem_pc (m : Memory) : (s.setMem m).pc = s.pc := rfl
@[simp] theorem setMem_i (m : Memory) : (s.setMem m).i = s.i := rfl
@[simp] theorem setMem_sp (m : Memory) : (s.setMem m).sp = s.sp := rfl
@[simp] theorem setMem_stack (m : Memory) : (s.setMem m).stack = s.stack := rfl
@[simp] theorem setMem_dt (m : Memory) : (s.setMem m).dt = s.dt := rfl
@[simp] theorem setMem_st (m : Memory) : (s.setMem m).st = s.st := rfl
@[simp] theorem setMem_mem (m : Memory) : (s.setMem m).mem = m := rfl
@[simp] theorem setMem_run (m : Memory) : (s.setMem m).run = s.run := rfl
@[simp] theorem setMem_fault (m : Memory) : (s.setMem m).fault = s.fault := rfl
@[simp] theorem setMem_display (m : Memory) : (s.setMem m).display = s.display := rfl
@[simp] theorem setMem_buzzer (m : Memory) : (s.setMem m).buzzer = s.buzzer := rfl
@[simp] theorem setMem_events (m : Memory) : (s.setMem m).events = s.events := rfl
@[simp] theorem setMem_keys (m : Memory) : (s.setMem m).keys = s.keys := rfl
@[simp] theorem setMem_rndIn (m : Memory) : (s.setMem m).rndIn = s.rndIn := rfl
@[simp] theorem setMem_cancel (m : Memory) : (s.setMem m).cancel = s.cancel := rfl
@[simp] theorem setMem_draws (m : Memory) : (s.setMem m).draws = s.draws := rfl
@[simp] theorem setMem_agenda (m : Memory) : (s.setMem m).agenda = s.agenda := rfl
@[simp] theorem setMem_rounds (m : Memory) : (s.setMem m).rounds = s.rounds := rfl
@[simp] theorem setMem_reg (m : Memory) (q : Reg) : (s.setMem m).reg q = s.reg q := rfl

/-! ### `setRun` -/

@[simp] theorem setRun_v (r : RunState) : (s.setRun r).v = s.v := rfl
@[simp] theorem setRun_pc (r : RunState) : (s.setRun r).pc = s.pc := rfl
@[simp] theorem setRun_i (r : RunState) : (s.setRun r).i = s.i := rfl
@[simp] theorem setRun_sp (r : RunState) : (s.setRun r).sp = s.sp := rfl
@[simp] theorem setRun_stack (r : RunState) : (s.setRun r).stack = s.stack := rfl
@[simp] theorem setRun_dt (r : RunState) : (s.setRun r).dt = s.dt := rfl
@[simp] theorem setRun_st (r : RunState) : (s.setRun r).st = s.st := rfl
@[simp] theorem setRun_mem (r : RunState) : (s.setRun r).mem = s.mem := rfl
@[simp] theorem setRun_run (r : RunState) : (s.setRun r).run = r := rfl
@[simp] theorem setRun_fault (r : RunState) : (s.setRun r).fault = s.fault := rfl
@[simp] theorem setRun_display (r : RunState) : (s.setRun r).display = s.display := rfl
@[simp] theorem setRun_buzzer (r : RunState) : (s.setRun r).buzzer = s.buzzer := rfl
@[simp] theorem setRun_events (r : RunState) : (s.setRun r).events = s.events := rfl
@[simp] theorem setRun_keys (r : RunState) : (s.setRun r).keys = s.keys := rfl
@[simp] theorem setRun_rndIn (r : RunState) : (s.setRun r).rndIn = s.rndIn := rfl
@[simp] theorem setRun_cancel (r : RunState) : (s.setRun r).cancel = s.cancel := rfl
@[simp] theorem setRun_draws (r : RunState) : (s.setRun r).draws = s.draws := rfl
@[simp] theorem setRun_agenda (r : RunState) : (s.setRun r).agenda = s.agenda := rfl
@[simp] theorem setRun_rounds (r : RunState) : (s.setRun r).rounds = s.rounds := rfl
@[simp] theorem setRun_reg (r : RunState) (q : Reg) : (s.setRun r).reg q = s.reg q := rfl

/-! ### `jump` -/

@[simp] theorem jump_v (w : Word) : (s.jump w).v = s.v := rfl
@[simp] theorem jump_pc (w : Word) : (s.jump w).pc = w := rfl
@[simp] theorem jump_i (w : Word) : (s.jump w).i = s.i := rfl
@[simp] theorem jump_sp (w : Word) : (s.jump w).sp = s.sp := rfl
@[simp] theorem jump_stack (w : Word) : (s.jump w).stack = s.stack := rfl
@[simp] theorem jump_dt (w : Word) : (s.jump w).dt = s.dt := rfl
@[simp] theorem jump_st (w : Word) : (s.jump w).st = s.st := rfl
@[simp] theorem jump_mem (w : Word) : (s.jump w).mem = s.mem := rfl
@[simp] theorem jump_run (w : Word) : (s.jump w).run = s.run := rfl
@[simp] theorem jump_fault (w : Word) : (s.jump w).fault = s.fault := rfl
@[simp] theorem jump_display (w : Word) : (s.jump w).display = s.display := rfl
@[simp] theorem jump_buzzer (w : Word) : (s.jump w).buzzer = s.buzzer := rfl
@[simp] theorem jump_events (w : Word) : (s.jump w).events = s.events := rfl
@[simp] theorem jump_keys (w : Word) : (s.jump w).keys = s.keys := rfl
@[simp] theorem jump_rndIn (w : Word) : (s.jump w).rndIn = s.rndIn := rfl
@[simp] theorem jump_cancel (w : Word) : (s.jump w).cancel = s.cancel := rfl
@[simp] theorem jump_draws (w : Word) : (s.jump w).draws = s.draws := rfl
@[simp] theorem jump_agenda (w : Word) : (s.jump w).agenda = s.agenda := rfl
@[simp] theorem jump_rounds (w : Word) : (s.jump w).rounds = s.rounds := rfl
@[simp] theorem jump_reg (w : Word) (q : Reg) : (s.jump w).reg q = s.reg q := rfl

/-! ### `advance` -/

@[simp] theorem advance_v : (s.advance).v = s.v := rfl
@[simp] theorem advance_pc : (s.advance).pc = s.pc + 2 := rfl
@[simp] theorem advance_i : (s.advance).i = s.i := rfl
@[simp] theorem advance_sp : (s.advance).sp = s.sp := rfl
@[simp] theorem advance_stack : (s.advance).stack = s.stack := rfl
@[simp] theorem advance_dt : (s.advance).dt = s.dt := rfl
@[simp] theorem advance_st : (s.advance).st = s.st := rfl
@[simp] theorem advance_mem : (s.advance).mem = s.mem := rfl
@[simp] theorem advance_run : (s.advance).run = s.run := rfl
@[simp] theorem advance_fault : (s.advance).fault = s.fault := rfl
@[simp] theorem advance_display : (s.advance).display = s.display := rfl
@[simp] theorem advance_buzzer : (s.advance).buzzer = s.buzzer := rfl
@[simp] theorem advance_events : (s.advance).events = s.events := rfl
@[simp] theorem advance_keys : (s.advance).keys = s.keys := rfl
@[simp] theorem advance_rndIn : (s.advance).rndIn = s.rndIn := rfl
@[simp] theorem advance_cancel : (s.advance).cancel = s.cancel := rfl
@[simp] theorem advance_draws : (s.advance).draws = s.draws := rfl
@[simp] theorem advance_agenda : (s.advance).agenda = s.agenda := rfl
@[simp] theorem advance_rounds : (s.advance).rounds = s.rounds := rfl
@[simp] theorem advance_reg (q : Reg) : (s.advance).reg q = s.reg q := rfl

/-! ### `skipIf` -/

@[simp] theorem skipIf_v (c : Bool) : (s.skipIf c).v = s.v := rfl
@[simp] theorem skipIf_pc (c : Bool) : (s.skipIf c).pc = if c then s.pc + 2 + 2 else s.pc + 2 := rfl
@[simp] theorem skipIf_i (c : Bool) : (s.skipIf c).i = s.i := rfl
@[simp] theorem skipIf_sp (c : Bool) : (s.skipIf c).sp = s.sp := rfl
@[simp] theorem skipIf_stack (c : Bool) : (s.skipIf c).stack = s.stack := rfl
@[simp] theorem skipIf_dt (c : Bool) : (s.skipIf c).dt = s.dt := rfl
@[simp] theorem skipIf_st (c : Bool) : (s.skipIf c).st = s.st := rfl
@[simp] theorem skipIf_mem (c : Bool) : (s.skipIf c).mem = s.mem := rfl
@[simp] theorem skipIf_run (c : Bool) : (s.skipIf c).run = s.run := rfl
@[simp] theorem skipIf_fault (c : Bool) : (s.skipIf c).fault = s.fault := rfl
@[simp] theorem skipIf_display (c : Bool) : (s.skipIf c).display = s.display := rfl
@[simp] theorem skipIf_buzzer (c : Bool) : (s.skipIf c).buzzer = s.buzzer := rfl
@[simp] theorem skipIf_events (c : Bool) : (s.skipIf c).events = s.events := rfl
@[simp] theorem skipIf_keys (c : Bool) : (s.skipIf c).keys = s.keys := rfl
@[simp] theorem skipIf_rndIn (c : Bool) : (s.skipIf c).rndIn = s.rndIn := rfl
@[simp] theorem skipIf_cancel (c : Bool) : (s.skipIf c).cancel = s.cancel := rfl
@[simp] theorem skipIf_draws (c : Bool) : (s.skipIf c).draws = s.draws := rfl
@[simp] theorem skipIf_agenda (c : Bool) : (s.skipIf c).agenda = s.agenda := rfl
@[simp] theorem skipIf_rounds (c : Bool) : (s.skipIf c).rounds = s.rounds := rfl
@[simp] theorem skipIf_reg (c : Bool) (q : Reg) : (s.skipIf c).reg q = s.reg q := rfl

/-! ### `push` -/

@[simp] theorem push_v (w : Word) (h : s.sp.toNat < 16) : (s.push w h).v = s.v := rfl
@[simp] theorem push_pc (w : Word) (h : s.sp.toNat < 16) : (s.push w h).pc = s.pc := rfl
@[simp] theorem push_i (w : Word) (h : s.sp.toNat < 16) : (s.push w h).i = s.i := rfl
@[simp] theorem push_sp (w : Word) (h : s.sp.toNat < 16) : (s.push w h).sp = s.sp + 1 := rfl
@[simp] theorem push_stack (w : Word) (h : s.sp.toNat < 16) : (s.push w h).stack = s.stack.set s.sp.toNat w h := rfl
@[simp] theorem push_dt (w : Word) (h : s.sp.toNat < 16) : (s.push w h).dt = s.dt := rfl
@[simp] theorem push_st (w : Word) (h : s.sp.toNat < 16) : (s.push w h).st = s.st := rfl
@[simp] theorem push_mem (w : Word) (h : s.sp.toNat < 16) : (s.push w h).mem = s.mem := rfl
@[simp] theorem push_run (w : Word) (h : s.sp.toNat < 16) : (s.push w h).run = s.run := rfl
@[simp] theorem push_fault (w : Word) (h : s.sp.toNat < 16) : (s.push w h).fault = s.fault := rfl
@[simp] theorem push_display (w : Word) (h : s.sp.toNat < 16) : (s.push w h).display = s.display := rfl
@[simp] theorem push_buzzer (w : Word) (h : s.sp.toNat < 16) : (s.push w h).buzzer = s.buzzer := rfl
@[simp] theorem push_events (w : Word) (h : s.sp.toNat < 16) : (s.push w h).events = s.events := rfl
@[simp] theorem push_keys (w : Word) (h : s.sp.toNat < 16) : (s.push w h).keys = s.keys := rfl
@[simp] theorem push_rndIn (w : Word) (h : s.sp.toNat < 16) : (s.push w h).rndIn = s.rndIn := rfl
@[simp] theorem push_cancel (w : Word) (h : s.sp.toNat < 16) : (s.push w h).cancel = s.cancel := rfl
@[simp] theorem push_draws (w : Word) (h : s.sp.toNat < 16) : (s.push w h).draws = s.draws := rfl
@[simp] theorem push_agenda (w : Word) (h : s.sp.toNat < 16) : (s.push w h).agenda = s.agenda := rfl
@[simp] theorem push_rounds (w : Word) (h : s.sp.toNat < 16) : (s.push w h).rounds = s.rounds := rfl
@[simp] theorem push_reg (w : Word) (h : s.sp.toNat < 16) (q : Reg) : (s.push w h).reg q = s.reg q := rfl

/-! ### `pop` -/

@[simp] theorem pop_v : (s.pop).v = s.v := rfl
@[simp] theorem pop_pc : (s.pop).pc = s.pc := rfl
@[simp] theorem pop_i : (s.pop).i = s.i := rfl
@[simp] theorem pop_sp : (s.pop).sp = s.sp - 1 := rfl
@[simp] theorem pop_stack : (s.pop).stack = s.stack := rfl
@[simp] theorem pop_dt : (s.pop).dt = s.dt := rfl
@[simp] theorem pop_st : (s.pop).st = s.st := rfl
@[simp] theorem pop_mem : (s.pop).mem = s.mem := rfl
@[simp] theorem pop_run : (s.pop).run = s.run := rfl
@[simp] theorem pop_fault : (s.pop).fault = s.fault := rfl
@[simp] theorem pop_display : (s.pop).display = s.display := rfl
@[simp] theorem pop_buzzer : (s.pop).buzzer = s.buzzer := rfl
@[simp] theorem pop_events : (s.pop).events = s.events := rfl
@[simp] theorem pop_keys : (s.pop).keys = s.keys := rfl
@[simp] theorem pop_rndIn : (s.pop).rndIn = s.rndIn := rfl
@[simp] theorem pop_cancel : (s.pop).cancel = s.cancel := rfl
@[simp] theorem pop_draws : (s.pop).draws = s.draws := rfl
@[simp] theorem pop_agenda : (s.pop).agenda = s.agenda := rfl
@[simp] theorem pop_rounds : (s.pop).rounds = s.rounds := rfl
@[simp] theorem pop_reg (q : Reg) : (s.pop).reg q = s.reg q := rfl

/-! ### `raise` -/

@[simp] theorem raise_v (c : FaultCode) (w : Word) : (s.raise c w).v = s.v := rfl
@[simp] theorem raise_pc (c : FaultCode) (w : Word) : (s.raise c w).pc = s.pc := rfl
@[simp] theorem raise_i (c : FaultCode) (w : Word) : (s.raise c w).i = s.i := rfl
@[simp] theorem raise_sp (c : FaultCode) (w : Word) : (s.raise c w).sp = s.sp := rfl
@[simp] theorem raise_stack (c : FaultCode) (w : Word) : (s.raise c w).stack = s.stack := rfl
@[simp] theorem raise_dt (c : FaultCode) (w : Word) : (s.raise c w).dt = s.dt := rfl
@[simp] theorem raise_st (c : FaultCode) (w : Word) : (s.raise c w).st = s.st := rfl
@[simp] theorem raise_mem (c : FaultCode) (w : Word) : (s.raise c w).mem = s.mem := rfl
@[simp] theorem raise_run (c : FaultCode) (w : Word) : (s.raise c w).run = .faulted := rfl
@[simp] theorem raise_fault (c : FaultCode) (w : Word) : (s.raise c w).fault = some ⟨c, s.pc, w⟩ := rfl
@[simp] theorem raise_display (c : FaultCode) (w : Word) : (s.raise c w).display = s.display := rfl
@[simp] theorem raise_buzzer (c : FaultCode) (w : Word) : (s.raise c w).buzzer = s.buzzer := rfl
@[simp] theorem raise_events (c : FaultCode) (w : Word) : (s.raise c w).events = s.events := rfl
@[simp] theorem raise_keys (c : FaultCode) (w : Word) : (s.raise c w).keys = s.keys := rfl
@[simp] theorem raise_rndIn (c : FaultCode) (w : Word) : (s.raise c w).rndIn = s.rndIn := rfl
@[simp] theorem raise_cancel (c : FaultCode) (w : Word) : (s.raise c w).cancel = s.cancel := rfl
@[simp] theorem raise_draws (c : FaultCode) (w : Word) : (s.raise c w).draws = s.draws := rfl
@[simp] theorem raise_agenda (c : FaultCode) (w : Word) : (s.raise c w).agenda = s.agenda := rfl
@[simp] theorem raise_rounds (c : FaultCode) (w : Word) : (s.raise c w).rounds = s.rounds := rfl
@[simp] theorem raise_reg (c : FaultCode) (w : Word) (q : Reg) : (s.raise c w).reg q = s.reg q := rfl

/-! ### `dtSet` -/

@[simp] theorem dtSet_v (b : Byte) : (s.dtSet b).v = s.v := rfl
@[simp] theorem dtSet_pc (b : Byte) : (s.dtSet b).pc = s.pc := rfl
@[simp] theorem dtSet_i (b : Byte) : (s.dtSet b).i = s.i := rfl
@[simp] theorem dtSet_sp (b : Byte) : (s.dtSet b).sp = s.sp := rfl
@[simp] theorem dtSet_stack (b : Byte) : (s.dtSet b).stack = s.stack := rfl
@[simp] theorem dtSet_dt (b : Byte) : (s.dtSet b).dt = b := rfl
@[simp] theorem dtSet_st (b : Byte) : (s.dtSet b).st = s.st := rfl
@[simp] theorem dtSet_mem (b : Byte) : (s.dtSet b).mem = s.mem := rfl
@[simp] theorem dtSet_run (b : Byte) : (s.dtSet b).run = s.run := rfl
@[simp] theorem dtSet_fault (b : Byte) : (s.dtSet b).fault = s.fault := rfl
@[simp] theorem dtSet_display (b : Byte) : (s.dtSet b).display = s.display := rfl
@[simp] theorem dtSet_buzzer (b : Byte) : (s.dtSet b).buzzer = s.buzzer := rfl
@[simp] theorem dtSet_events (b : Byte) : (s.dtSet b).events = s.events := rfl
@[simp] theorem dtSet_keys (b : Byte) : (s.dtSet b).keys = s.keys := rfl
@[simp] theorem dtSet_rndIn (b : Byte) : (s.dtSet b).rndIn = s.rndIn := rfl
@[simp] theorem dtSet_cancel (b : Byte) : (s.dtSet b).cancel = s.cancel := rfl
@[simp] theorem dtSet_draws (b : Byte) : (s.dtSet b).draws = s.draws := rfl
@[simp] theorem dtSet_agenda (b : Byte) : (s.dtSet b).agenda = s.agenda := rfl
@[simp] theorem dtSet_rounds (b : Byte) : (s.dtSet b).rounds = s.rounds := rfl
@[simp] theorem dtSet_reg (b : Byte) (q : Reg) : (s.dtSet b).reg q = s.reg q := rfl

/-! ### `dtTick` -/

@[simp] theorem dtTick_v : (s.dtTick).v = s.v := rfl
@[simp] theorem dtTick_pc : (s.dtTick).pc = s.pc := rfl
@[simp] theorem dtTick_i : (s.dtTick).i = s.i := rfl
@[simp] theorem dtTick_sp : (s.dtTick).sp = s.sp := rfl
@[simp] theorem dtTick_stack : (s.dtTick).stack = s.stack := rfl
@[simp] theorem dtTick_dt : (s.dtTick).dt = (timerTick s.dt).1 := rfl
@[simp] theorem dtTick_st : (s.dtTick).st = s.st := rfl
@[simp] theorem dtTick_mem : (s.dtTick).mem = s.mem := rfl
@[simp] theorem dtTick_run : (s.dtTick).run = s.run := rfl
@[simp] theorem dtTick_fault : (s.dtTick).fault = s.fault := rfl
@[simp] theorem dtTick_display : (s.dtTick).display = s.display := rfl
@[simp] theorem dtTick_buzzer : (s.dtTick).buzzer = s.buzzer := rfl
@[simp] theorem dtTick_events : (s.dtTick).events = s.events := rfl
@[simp] theorem dtTick_keys : (s.dtTick).keys = s.keys := rfl
@[simp] theorem dtTick_rndIn : (s.dtTick).rndIn = s.rndIn := rfl
@[simp] theorem dtTick_cancel : (s.dtTick).cancel = s.cancel := rfl
@[simp] theorem dtTick_draws : (s.dtTick).draws = s.draws := rfl
@[simp] theorem dtTick_agenda : (s.dtTick).agenda = s.agenda := rfl
@[simp] theorem dtTick_rounds : (s.dtTick).rounds = s.rounds := rfl
@[simp] theorem dtTick_reg (q : Reg) : (s.dtTick).reg q = s.reg q := rfl

/-! ### `stSet` -/

@[simp] theorem stSet_v (b : Byte) : (s.stSet b).v = s.v := rfl
@[simp] theorem stSet_pc (b : Byte) : (s.stSet b).pc = s.pc := rfl
@[simp] theorem stSet_i (b : Byte) : (s.stSet b).i = s.i := rfl
@[simp] theorem stSet_sp (b : Byte) : (s.stSet b).sp = s.sp := rfl
@[simp] theorem stSet_stack (b : Byte) : (s.stSet b).stack = s.stack := rfl
@[simp] theorem stSet_dt (b : Byte) : (s.stSet b).dt = s.dt := rfl
@[simp] theorem stSet_st (b : Byte) : (s.stSet b).st = b := rfl
@[simp] theorem stSet_mem (b : Byte) : (s.stSet b).mem = s.mem := rfl
@[simp] theorem stSet_run (b : Byte) : (s.stSet b).run = s.run := rfl
@[simp] theorem stSet_fault (b : Byte) : (s.stSet b).fault = s.fault := rfl
@[simp] theorem stSet_display (b : Byte) : (s.stSet b).display = s.display := rfl
@[simp] theorem stSet_buzzer (b : Byte) : (s.stSet b).buzzer = buzzerAfter s.buzzer (timerSet s.st b).2 := rfl
@[simp] theorem stSet_events (b : Byte) : (s.stSet b).events = s.events ++ notificationEvents (timerSet s.st b).2 := rfl
@[simp] theorem stSet_keys (b : Byte) : (s.stSet b).keys = s.keys := rfl
@[simp] theorem stSet_rndIn (b : Byte) : (s.stSet b).rndIn = s.rndIn := rfl
@[simp] theorem stSet_cancel (b : Byte) : (s.stSet b).cancel = s.cancel := rfl
@[simp] theorem stSet_draws (b : Byte) : (s.stSet b).draws = s.draws := rfl
@[simp] theorem stSet_agenda (b : Byte) : (s.stSet b).agenda = s.agenda := rfl
@[simp] theorem stSet_rounds (b : Byte) : (s.stSet b).rounds = s.rounds := rfl
@[simp] theorem stSet_reg (b : Byte) (q : Reg) : (s.stSet b).reg q = s.reg q := rfl

/-! ### `stTick` -/

@[simp] theorem stTick_v : (s.stTick).v = s.v := rfl
@[simp] theorem stTick_pc : (s.stTick).pc = s.pc := rfl
@[simp] theorem stTick_i : (s.stTick).i = s.i := rfl
@[simp] theorem stTick_sp : (s.stTick).sp = s.sp := rfl
@[simp] theorem stTick_stack : (s.stTick).stack = s.stack := rfl
@[simp] theorem stTick_dt : (s.stTick).dt = s.dt := rfl
@[simp] theorem stTick_st : (s.stTick).st = (timerTick s.st).1 := rfl
@[simp] theorem stTick_mem : (s.stTick).mem = s.mem := rfl
@[simp] theorem stTick_run : (s.stTick).run = s.run := rfl
@[simp] theorem stTick_fault : (s.stTick).fault = s.fault := rfl
@[simp] theorem stTick_display : (s.stTick).display = s.display := rfl
@[simp] theorem stTick_buzzer : (s.stTick).buzzer = buzzerAfter s.buzzer (timerTick s.st).2 := rfl
@[simp] theorem stTick_events : (s.stTick).events = s.events ++ notificationEvents (timerTick s.st).2 := rfl
@[simp] theorem stTick_keys : (s.stTick).keys = s.keys := rfl
@[simp] theorem stTick_rndIn : (s.stTick).rndIn = s.rndIn := rfl
@[simp] theorem stTick_cancel : (s.stTick).cancel = s.cancel := rfl
@[simp] theorem stTick_draws : (s.stTick).draws = s.draws := rfl
@[simp] theorem stTick_agenda : (s.stTick).agenda = s.agenda := rfl
@[simp] theorem stTick_rounds : (s.stTick).rounds = s.rounds := rfl
@[simp] theorem stTick_reg (q : Reg) : (s.stTick).reg q = s.reg q := rfl

/-! ### `consumeRandom` -/

@[simp] theorem consumeRandom_v : (s.consumeRandom).v = s.v := rfl
@[simp] theorem consumeRandom_pc : (s.consumeRandom).pc = s.pc := rfl
@[simp] theorem consumeRandom_i : (s.consumeRandom).i = s.i := rfl
@[simp] theorem consumeRandom_sp : (s.consumeRandom).sp = s.sp := rfl
@[simp] theorem consumeRandom_stack : (s.consumeRandom).stack = s.stack := rfl
@[simp] theorem consumeRandom_dt : (s.consumeRandom).dt = s.dt := rfl
@[simp] theorem consumeRandom_st : (s.consumeRandom).st = s.st := rfl
@[simp] theorem consumeRandom_mem : (s.consumeRandom).mem = s.mem := rfl
@[simp] theorem consumeRandom_run : (s.consumeRandom).run = s.run := rfl
@[simp] theorem consumeRandom_fault : (s.consumeRandom).fault = s.fault := rfl
@[simp] theorem consumeRandom_display : (s.consumeRandom).display = s.display := rfl
@[simp] theorem consumeRandom_buzzer : (s.consumeRandom).buzzer = s.buzzer := rfl
@[simp] theorem consumeRandom_events : (s.consumeRandom).events = s.events := rfl
@[simp] theorem consumeRandom_keys : (s.consumeRandom).keys = s.keys := rfl
@[simp] theorem consumeRandom_rndIn : (s.consumeRandom).rndIn = s.rndIn.tail := rfl
@[simp] theorem consumeRandom_cancel : (s.consumeRandom).cancel = s.cancel := rfl
@[simp] theorem consumeRandom_draws : (s.consumeRandom).draws = if s.rndIn = [] then s.draws + 1 else s.draws := rfl
@[simp] theorem consumeRandom_agenda : (s.consumeRandom).agenda = s.agenda := rfl
@[simp] theorem consumeRandom_rounds : (s.consumeRandom).rounds = s.rounds := rfl
@[simp] theorem consumeRandom_reg (q : Reg) : (s.consumeRandom).reg q = s.reg q := rfl

/-! ### `consumeChoice` -/

@[simp] theorem consumeChoice_v (p : List Nat) : (s.consumeChoice p).v = s.v := rfl
@[simp] theorem consumeChoice_pc (p : List Nat) : (s.consumeChoice p).pc = s.pc := rfl
@[simp] theorem consumeChoice_i (p : List Nat) : (s.consumeChoice p).i = s.i := rfl
@[simp] theorem consumeChoice_sp (p : List Nat) : (s.consumeChoice p).sp = s.sp := rfl
@[simp] theorem consumeChoice_stack (p : List Nat) : (s.consumeChoice p).stack = s.stack := rfl
@[simp] theorem consumeChoice_dt (p : List Nat) : (s.consumeChoice p).dt = s.dt := rfl
@[simp] theorem consumeChoice_st (p : List Nat) : (s.consumeChoice p).st = s.st := rfl
@[simp] theorem consumeChoice_mem (p : List Nat) : (s.consumeChoice p).mem = s.mem := rfl
@[simp] theorem consumeChoice_run (p : List Nat) : (s.consumeChoice p).run = s.run := rfl
@[simp] theorem consumeChoice_fault (p : List Nat) : (s.consumeChoice p).fault = s.fault := rfl
@[simp] theorem consumeChoice_display (p : List Nat) : (s.consumeChoice p).display = s.display := rfl
@[simp] theorem consumeChoice_buzzer (p : List Nat) : (s.consumeChoice p).buzzer = s.buzzer := rfl
@[simp] theorem consumeChoice_events (p : List Nat) : (s.consumeChoice p).events = s.events := rfl
@[simp] theorem consumeChoice_keys (p : List Nat) : (s.consumeChoice p).keys = s.keys := rfl
@[simp] theorem consumeChoice_rndIn (p : List Nat) : (s.consumeChoice p).rndIn = s.rndIn := rfl
@[simp] theorem consumeChoice_cancel (p : List Nat) : (s.consumeChoice p).cancel = s.cancel := rfl
@[simp] theorem consumeChoice_draws (p : List Nat) : (s.consumeChoice p).draws = if p.length > 1 then s.draws + 1 else s.draws := rfl
@[simp] theorem consumeChoice_agenda (p : List Nat) : (s.consumeChoice p).agenda = s.agenda := rfl
@[simp] theorem consumeChoice_rounds (p : List Nat) : (s.consumeChoice p).rounds = s.rounds := rfl
@[simp] theorem consumeChoice_reg (p : List Nat) (q : Reg) : (s.consumeChoice p).reg q = s.reg q := rfl

/-! ### `drawSprite` -/

@[simp] theorem drawSprite_v (x y : Byte) (sp : List Byte) : (s.drawSprite x y sp).v = s.v := rfl
@[simp] theorem drawSprite_pc (x y : Byte) (sp : List Byte) : (s.drawSprite x y sp).pc = s.pc := rfl
@[simp] theorem drawSprite_i (x y : Byte) (sp : List Byte) : (s.drawSprite x y sp).i = s.i := rfl
@[simp] theorem drawSprite_sp (x y : Byte) (sp : List Byte) : (s.drawSprite x y sp).sp = s.sp := rfl
@[simp] theorem drawSprite_stack (x y : Byte) (sp : List Byte) : (s.drawSprite x y sp).stack = s.stack := rfl
@[simp] theorem drawSprite_dt (x y : Byte) (sp : List Byte) : (s.drawSprite x y sp).dt = s.dt := rfl
@[simp] theorem drawSprite_st (x y : Byte) (sp : List Byte) : (s.drawSprite x y sp).st = s.st := rfl
@[simp] theorem drawSprite_mem (x y : Byte) (sp : List Byte) : (s.drawSprite x y sp).mem = s.mem := rfl
@[simp] theorem drawSprite_run (x y : Byte) (sp : List Byte) : (s.drawSprite x y sp).run = s.run := rfl
@[simp] theorem drawSprite_fault (x y : Byte) (sp : List Byte) : (s.drawSprite x y sp).fault = s.fault := rfl
@[simp] theorem drawSprite_display (x y : Byte) (sp : List Byte) : (s.drawSprite x y sp).display = (s.display.draw (Config.freeCollision s.draws) x y sp).1 := rfl
@[simp] theorem drawSprite_buzzer (x y : Byte) (sp : List Byte) : (s.drawSprite x y sp).buzzer = s.buzzer := rfl
@[simp] theorem drawSprite_events (x y : Byte) (sp : List Byte) : (s.drawSprite x y sp).events = s.events ++ [.displayDraw x y sp (s.drawReply x y sp)] := rfl
@[simp] theorem drawSprite_keys (x y : Byte) (sp : List Byte) : (s.drawSprite x y sp).keys = s.keys := rfl
@[simp] theorem drawSprite_rndIn (x y : Byte) (sp : List Byte) : (s.drawSprite x y sp).rndIn = s.rndIn := rfl
@[simp] theorem drawSprite_cancel (x y : Byte) (sp : List Byte) : (s.drawSprite x y sp).cancel = s.cancel := rfl
@[simp] theorem drawSprite_draws (x y : Byte) (sp : List Byte) : (s.drawSprite x y sp).draws = if s.display.drawsFree sp then s.draws + 1 else s.draws := rfl
@[simp] theorem drawSprite_agenda (x y : Byte) (sp : List Byte) : (s.drawSprite x y sp).agenda = s.agenda := rfl
@[simp] theorem drawSprite_rounds (x y : Byte) (sp : List Byte) : (s.drawSprite x y sp).rounds = s.rounds := rfl
@[simp] theorem drawSprite_reg (x y : Byte) (sp : List Byte) (q : Reg) : (s.drawSprite x y sp).reg q = s.reg q := rfl

/-! ### `clearDisplay` -/

@[simp] theorem clearDisplay_v : (s.clearDisplay).v = s.v := rfl
@[simp] theorem clearDisplay_pc : (s.clearDisplay).pc = s.pc := rfl
@[simp] theorem clearDisplay_i : (s.clearDisplay).i = s.i := rfl
@[simp] theorem clearDisplay_sp : (s.clearDisplay).sp = s.sp := rfl
@[simp] theorem clearDisplay_stack : (s.clearDisplay).stack = s.stack := rfl
@[simp] theorem clearDisplay_dt : (s.clearDisplay).dt = s.dt := rfl
@[simp] theorem clearDisplay_st : (s.clearDisplay).st = s.st := rfl
@[simp] theorem clearDisplay_mem : (s.clearDisplay).mem = s.mem := rfl
@[simp] theorem clearDisplay_run : (s.clearDisplay).run = s.run := rfl
@[simp] theorem clearDisplay_fault : (s.clearDisplay).fault = s.fault := rfl
@[simp] theorem clearDisplay_display : (s.clearDisplay).display = s.display.clear := rfl
@[simp] theorem clearDisplay_buzzer : (s.clearDisplay).buzzer = s.buzzer := rfl
@[simp] theorem clearDisplay_events : (s.clearDisplay).events = s.events ++ [.displayClear] := rfl
@[simp] theorem clearDisplay_keys : (s.clearDisplay).keys = s.keys := rfl
@[simp] theorem clearDisplay_rndIn : (s.clearDisplay).rndIn = s.rndIn := rfl
@[simp] theorem clearDisplay_cancel : (s.clearDisplay).cancel = s.cancel := rfl
@[simp] theorem clearDisplay_draws : (s.clearDisplay).draws = s.draws := rfl
@[simp] theorem clearDisplay_agenda : (s.clearDisplay).agenda = s.agenda := rfl
@[simp] theorem clearDisplay_rounds : (s.clearDisplay).rounds = s.rounds := rfl
@[simp] theorem clearDisplay_reg (q : Reg) : (s.clearDisplay).reg q = s.reg q := rfl

/-! ### `turnTaken` -/

@[simp] theorem turnTaken_v : (s.turnTaken).v = s.v := rfl
@[simp] theorem turnTaken_pc : (s.turnTaken).pc = s.pc := rfl
@[simp] theorem turnTaken_i : (s.turnTaken).i = s.i := rfl
@[simp] theorem turnTaken_sp : (s.turnTaken).sp = s.sp := rfl
@[simp] theorem turnTaken_stack : (s.turnTaken).stack = s.stack := rfl
@[simp] theorem turnTaken_dt : (s.turnTaken).dt = s.dt := rfl
@[simp] theorem turnTaken_st : (s.turnTaken).st = s.st := rfl
@[simp] theorem turnTaken_mem : (s.turnTaken).mem = s.mem := rfl
@[simp] theorem turnTaken_run : (s.turnTaken).run = s.run := rfl
@[simp] theorem turnTaken_fault : (s.turnTaken).fault = s.fault := rfl
@[simp] theorem turnTaken_display : (s.turnTaken).display = s.display := rfl
@[simp] theorem turnTaken_buzzer : (s.turnTaken).buzzer = s.buzzer := rfl
@[simp] theorem turnTaken_events : (s.turnTaken).events = s.events := rfl
@[simp] theorem turnTaken_keys : (s.turnTaken).keys = s.keys := rfl
@[simp] theorem turnTaken_rndIn : (s.turnTaken).rndIn = s.rndIn := rfl
@[simp] theorem turnTaken_cancel : (s.turnTaken).cancel = s.cancel := rfl
@[simp] theorem turnTaken_draws : (s.turnTaken).draws = s.draws := rfl
@[simp] theorem turnTaken_agenda : (s.turnTaken).agenda = s.plan.tail := rfl
@[simp] theorem turnTaken_rounds : (s.turnTaken).rounds = if s.agenda = [] then s.rounds + 1 else s.rounds := rfl
@[simp] theorem turnTaken_reg (q : Reg) : (s.turnTaken).reg q = s.reg q := rfl

/-! ### `reg` after a register write -/

/-- A register read after a register write: the value written where the numbers agree, else what it held. -/
@[simp] theorem setReg_reg (r q : Reg) (b : Byte) : (s.setReg r b).reg q = if r = q then b else s.reg q := by
  simp [State.setReg, State.reg, Vector.getElem_set, Fin.ext_iff]

@[simp] theorem setRegs_reg (v : Vector Byte 16) (q : Reg) : (s.setRegs v).reg q = v[q] := rfl

/-! ### The schedule -/

/-- A given agenda is the plan. -/
theorem plan_cons {s : State} {a : Turn} {as : List Turn} (h : s.agenda = a :: as) : s.plan = a :: as := by
  simp [State.plan, h]

/-- With none given the plan is the next round. -/
theorem plan_nil {s : State} (h : s.agenda = []) : s.plan = fairRound (Config.freeRound s.rounds) := by
  simp [State.plan, h]

theorem nextTurn_cons {s : State} {a : Turn} {as : List Turn} (h : s.agenda = a :: as) : s.nextTurn = a := by
  simp [State.nextTurn, plan_cons h]

theorem turnTaken_cons {s : State} {a : Turn} {as : List Turn} (h : s.agenda = a :: as) : s.turnTaken = { s with agenda := as } := by
  simp [State.turnTaken, plan_cons h, h]

/-- Each of the three agents has a turn in every round. -/
theorem mem_fairRound {a : Turn} (drawn : List Turn) (h : a ∈ agentTurns) : a ∈ fairRound drawn := by
  have hi : a.isInit = false := by
    simp only [agentTurns, List.mem_cons, List.not_mem_nil, or_false] at h
    rcases h with rfl | rfl | rfl <;> rfl
  by_cases hd : a ∈ drawn
  · simp [fairRound, hd, hi]
  · simp [fairRound, hd, h]

/-- No round holds an `INIT`. -/
theorem isInit_of_mem_fairRound {a : Turn} {drawn : List Turn} (h : a ∈ fairRound drawn) : a.isInit = false := by
  simp only [fairRound, agentTurns, List.mem_append, List.mem_filter, List.mem_cons, List.not_mem_nil, or_false] at h
  rcases h with ⟨_, h⟩ | ⟨rfl | rfl | rfl, _⟩
  · simpa using h
  all_goals rfl

theorem fairRound_ne_nil (drawn : List Turn) : fairRound drawn ≠ [] :=
  List.ne_nil_of_mem (mem_fairRound drawn (a := .cpu) (by decide))

/-- There is always a turn to come. -/
theorem plan_ne_nil (s : State) : s.plan ≠ [] := by
  cases h : s.agenda with
  | nil => rw [plan_nil h]; exact fairRound_ne_nil _
  | cons a as => rw [plan_cons h]; exact List.cons_ne_nil _ _

/-- The next turn is the head of the plan. -/
theorem plan_eq (s : State) : s.plan = s.nextTurn :: s.plan.tail := by
  unfold State.nextTurn
  cases h : s.plan with
  | nil => exact absurd h (plan_ne_nil s)
  | cons a as => rfl

/-- Two register files that read alike are the same. -/
theorem regs_ext {s t : State} (h : ∀ r, t.reg r = s.reg r) : t.v = s.v := by
  apply Vector.ext
  intro k hk
  simpa [State.reg] using h ⟨k, hk⟩

end Sys2Proof.Machine
end

