-- ==== Sys2Proof/Laws/Display.lean ====
section
/-! SUPPORT. The reference Display: what drawing one sprite bit does to each pixel, and that a blank grid is blank. -/

namespace Sys2Proof.Machine

/-- A pixel read after a pixel write: the value written at its place, every other pixel as before. -/
@[simp] theorem pixel_setPixel (g : Grid) (r r' : Fin 32) (c c' : Fin 64) (p : Bool) :
    (g.setPixel r c p).pixel r' c' = if r = r' ∧ c = c' then p else g.pixel r' c' := by
  simp only [Grid.pixel, Grid.setPixel, Fin.getElem_fin, Vector.getElem_set, Fin.ext_iff]
  by_cases hr : r.val = r'.val
  · simp only [hr, if_true, true_and, Vector.getElem_set]
  · simp [hr]

/-- Drawing one sprite bit XORs it into its pixel and leaves the others. -/
@[simp] theorem drawPixel_pixel (acc : Grid × Bool) (r r' : Fin 32) (c c' : Fin 64) (b : Bool) :
    (drawPixel acc r c b).1.pixel r' c' = (acc.1.pixel r' c' ^^ (decide (r = r' ∧ c = c') && b)) := by
  simp only [drawPixel, pixel_setPixel]
  split_ifs with h
  · obtain ⟨rfl, rfl⟩ := h
    simp
  · simp [h]

/-- Drawing one sprite bit collides where the bit is 1 and the pixel was lit. -/
@[simp] theorem drawPixel_collision (acc : Grid × Bool) (r : Fin 32) (c : Fin 64) (b : Bool) :
    (drawPixel acc r c b).2 = (acc.2 || (acc.1.pixel r c && b)) := by
  simp only [drawPixel]
  cases acc.1.pixel r c <;> cases b <;> simp

@[simp] theorem blank_pixel (r : Fin 32) (c : Fin 64) : Grid.blank.pixel r c = false := by
  simp [Grid.pixel, Grid.blank]

/-- An empty sprite changes no Display and collides with nothing (R182, D20). -/
@[simp] theorem draw_nil (d : Display) (free : Bool) (x y : Byte) : d.draw free x y [] = (d, false) := by
  cases d <;> rfl

/-- An empty sprite takes no free value. -/
@[simp] theorem drawsFree_nil (d : Display) : d.drawsFree [] = false := by
  rcases d with _ | _ | (_ | _) <;> rfl

/-- Two grids with the same pixels are the same. -/
theorem grid_ext {g h : Grid} (e : ∀ r c, g.pixel r c = h.pixel r c) : g = h := by
  apply Vector.ext
  intro i hi
  apply Vector.ext
  intro j hj
  exact e ⟨i, hi⟩ ⟨j, hj⟩

end Sys2Proof.Machine
end

