-- ==== Sys2Proof/Laws/Memory.lean ====
section
/-! SUPPORT. Memory: a read after a write, consecutive reads and writes, and the canonical form, which every operation keeps. -/

namespace Sys2Proof.Machine

namespace Memory

theorem read_insert (m : Memory) (a c : Nat) (b : Byte) :
    (m.insert a b).read c = if c = a then b else m.read c := by
  induction m with
  | nil => simp [insert, read]
  | cons d m ih =>
    obtain ⟨a', b'⟩ := d
    by_cases h1 : a < a'
    · simp [insert, h1, read]
    · by_cases h2 : a = a'
      · subst h2
        by_cases hc : c = a <;> simp [insert, read, hc]
      · by_cases hc : c = a'
        · subst hc
          simp [insert, h1, h2, read, Ne.symm h2]
        · simp [insert, h1, h2, read, hc, ih]

theorem read_erase (m : Memory) (a c : Nat) :
    Memory.read (m.filter (fun d => d.1 != a)) c = if c = a then background a else m.read c := by
  induction m with
  | nil => by_cases hc : c = a <;> simp [read, hc]
  | cons d m ih =>
    by_cases hd : d.1 = a
    · by_cases hc : c = a
      · simpa [hd, hc] using ih
      · simpa [hd, hc, read] using ih
    · by_cases hc : c = d.1
      · subst hc
        simp [hd, read]
      · simp [hd, read, hc, ih]

/-- A read after a write: the byte written at its address, every other byte as before (R58). -/
@[simp] theorem read_write (m : Memory) (a c : Nat) (b : Byte) :
    (m.write a b).read c = if c = a then b else m.read c := by
  unfold write
  split_ifs with hb hc hc
  · simp [read_erase, hc, hb]
  · simp [read_erase, hc]
  · simp [read_insert, hc]
  · simp [read_insert, hc]

/-- A read after consecutive writes: the byte written where the address is in their range, every other byte as before. -/
theorem read_writeBytes (bs : List Byte) (m : Memory) (a c : Nat) :
    (m.writeBytes a bs).read c =
      if h : a ≤ c ∧ c < a + bs.length then bs[c - a]'(by omega) else m.read c := by
  induction bs generalizing m a with
  | nil => simp [writeBytes]
  | cons b bs ih =>
    rw [writeBytes, ih]
    by_cases hc : c = a
    · subst hc
      simp
    · by_cases h : a + 1 ≤ c ∧ c < a + 1 + bs.length
      · have hs : c - a = (c - (a + 1)) + 1 := by omega
        have h' : a ≤ c ∧ c < a + (b :: bs).length := by simp only [List.length_cons]; omega
        rw [dif_pos h, dif_pos h']
        simp [hs]
      · have h' : ¬ (a ≤ c ∧ c < a + (b :: bs).length) := by simp only [List.length_cons]; omega
        rw [dif_neg h, dif_neg h', read_write, if_neg hc]

/-- Consecutive writes leave the bytes outside their range as they were. -/
theorem read_writeBytes_outside (bs : List Byte) (m : Memory) (a c : Nat) (h : ¬ (a ≤ c ∧ c < a + bs.length)) :
    (m.writeBytes a bs).read c = m.read c := by
  rw [read_writeBytes, dif_neg h]

/-- Consecutive writes put the k-th byte at the k-th address. -/
theorem read_writeBytes_inside (bs : List Byte) (m : Memory) (a k : Nat) (h : k < bs.length) :
    (m.writeBytes a bs).read (a + k) = bs[k] := by
  have hk : a ≤ a + k ∧ a + k < a + bs.length := by omega
  rw [read_writeBytes, dif_pos hk]
  simp

@[simp] theorem length_readBytes (m : Memory) (a n : Nat) : (m.readBytes a n).length = n := by
  induction n generalizing a with
  | zero => rfl
  | succ n ih => simp [readBytes, ih]

/-- The k-th of consecutive reads is the byte at the k-th address. -/
@[simp] theorem getElem_readBytes (m : Memory) (a n k : Nat) (h : k < (m.readBytes a n).length) :
    (m.readBytes a n)[k] = m.read (a + k) := by
  induction n generalizing a k with
  | zero => simp at h
  | succ n ih =>
    cases k with
    | zero => simp [readBytes]
    | succ k =>
      simp only [readBytes, List.getElem_cons_succ]
      rw [ih, show a + 1 + k = a + (k + 1) by omega]

/-! ### The canonical form -/

theorem mem_insert {m : Memory} {a : Nat} {b : Byte} {c : Host.Cell} (h : c ∈ m.insert a b) : c = (a, b) ∨ c ∈ m := by
  induction m with
  | nil => simpa [insert] using h
  | cons d m ih =>
    unfold insert at h
    split_ifs at h
    · simpa using h
    · simp only [List.mem_cons] at h ⊢
      tauto
    · simp only [List.mem_cons] at h ⊢
      rcases h with h | h
      · tauto
      · rcases ih h with h | h <;> tauto

theorem sorted_insert {m : Memory} (a : Nat) (b : Byte) (h : m.Pairwise (fun c d => c.1 < d.1)) :
    (m.insert a b).Pairwise (fun c d => c.1 < d.1) := by
  induction m with
  | nil => simp [insert]
  | cons d m ih =>
    rw [List.pairwise_cons] at h
    unfold insert
    split_ifs with h1 h2
    · refine List.pairwise_cons.2 ⟨fun c hc => ?_, List.pairwise_cons.2 h⟩
      rcases List.mem_cons.1 hc with rfl | hc
      · exact h1
      · exact Nat.lt_trans h1 (h.1 c hc)
    · exact List.pairwise_cons.2 ⟨fun c hc => h2 ▸ h.1 c hc, h.2⟩
    · refine List.pairwise_cons.2 ⟨fun c hc => ?_, ih h.2⟩
      rcases mem_insert hc with rfl | hc
      · show d.1 < a
        omega
      · exact h.1 c hc

/-- A write at an address of memory keeps the canonical form. -/
theorem wf_write {m : Memory} {a : Nat} (b : Byte) (h : m.wf) (ha : a < Config.memSize) : (m.write a b).wf := by
  unfold write
  split_ifs with hb
  · exact ⟨h.1.filter _, fun c hc => h.2 c (List.mem_of_mem_filter hc)⟩
  · refine ⟨sorted_insert a b h.1, fun c hc => ?_⟩
    rcases mem_insert hc with rfl | hc
    · exact ⟨ha, hb⟩
    · exact h.2 c hc

/-- Consecutive writes inside memory keep the canonical form. -/
theorem wf_writeBytes (bs : List Byte) {m : Memory} {a : Nat} (h : m.wf) (ha : a + bs.length ≤ Config.memSize) :
    (m.writeBytes a bs).wf := by
  induction bs generalizing m a with
  | nil => exact h
  | cons b bs ih =>
    simp only [List.length_cons] at ha
    exact ih (wf_write b h (by omega)) (by omega)

theorem wf_nil : Memory.wf [] := by simp [wf]

/-- The first listed cell decides what its address reads as; canonical memories list no address twice. -/
theorem read_of_mem {m : Memory} {c : Host.Cell} (h : m.Pairwise (fun c d => c.1 < d.1)) (hc : c ∈ m) : m.read c.1 = c.2 := by
  induction m with
  | nil => simp at hc
  | cons d m ih =>
    rw [List.pairwise_cons] at h
    rcases List.mem_cons.1 hc with rfl | hc
    · simp [read]
    · have hlt := h.1 c hc
      simp [read, Nat.ne_of_gt hlt, ih h.2 hc]

/-- An address that is not listed reads as the reset contents. -/
theorem read_of_not_mem {m : Memory} {a : Nat} (h : ∀ c ∈ m, c.1 ≠ a) : m.read a = background a := by
  induction m with
  | nil => rfl
  | cons d m ih =>
    have hd : a ≠ d.1 := (h d (by simp)).symm
    simp only [read, if_neg hd]
    exact ih (fun c hc => h c (by simp [hc]))

/-- In the canonical form a cell is listed exactly where its byte differs from the reset contents. -/
theorem mem_iff_read {m : Memory} (h : m.wf) (c : Host.Cell) : c ∈ m ↔ m.read c.1 = c.2 ∧ c.2 ≠ background c.1 := by
  constructor
  · intro hc
    exact ⟨read_of_mem h.1 hc, (h.2 c hc).2⟩
  · rintro ⟨hr, hb⟩
    by_cases hm : ∃ d ∈ m, d.1 = c.1
    · obtain ⟨d, hd, hdc⟩ := hm
      have : d.2 = c.2 := by rw [← read_of_mem h.1 hd, hdc, hr]
      rwa [show c = d from Prod.ext hdc.symm this.symm]
    · push Not at hm
      exact absurd (hr ▸ read_of_not_mem hm) hb

/-- Canonical memories that read alike are the same list. -/
theorem ext_of_read {m n : Memory} (hm : m.wf) (hn : n.wf) (h : ∀ a, m.read a = n.read a) : m = n := by
  have hp : m.Perm n := by
    refine (List.perm_ext_iff_of_nodup ?_ ?_).2 fun c => by rw [mem_iff_read hm, mem_iff_read hn, h]
    · exact hm.1.imp fun hcd heq => by subst heq; omega
    · exact hn.1.imp fun hcd heq => by subst heq; omega
  exact hp.eq_of_pairwise (fun a b _ _ h1 h2 => by omega) hm.1 hn.1

end Memory
end Sys2Proof.Machine
end

