-- ==== Sys2Proof/Laws/Ops.lean ====
section
/-! SUPPORT. One lemma for each shared operation: everything it can do. -/

namespace Sys2Proof.Machine

/-! ### Checked accesses -/

/-- A range is in memory where it is empty or ends at or below 0xFFF (R56). -/
theorem rangeOk_iff (s : State) (len : Nat) : s.rangeOk len = true ↔ len = 0 ∨ s.i.toNat + len ≤ 0x1000 := by
  simp only [State.rangeOk, Bool.or_eq_true, beq_iff_eq, decide_eq_true_eq]
  rfl

/-- A checked access has its effect or takes `MemoryBounds`; it never stops. -/
theorem checkRange_cases (s t : State) (len : Nat) (e : State) :
    s.checkRange len e = .next t ↔
      (s.rangeOk len = true ∧ t = e) ∨ (s.rangeOk len = false ∧ t = s.raise .memoryBounds s.firstOutside) := by
  unfold State.checkRange
  cases s.rangeOk len <;> simp [eq_comm]

/-- A key instruction has its effect or takes `KeyIndexOutOfRange`; it never stops. -/
theorem checkKey_cases (s t : State) (x : Reg) (e : State) :
    s.checkKey x e = .next t ↔
      ((s.reg x).toNat ≤ 15 ∧ t = e) ∨
        (15 < (s.reg x).toNat ∧ t = s.raise .keyIndexOutOfRange (zext16 (s.reg x))) := by
  unfold State.checkKey
  split_ifs with h
  · have h' : ¬ (s.reg x).toNat ≤ 15 := by omega
    simp [h, h', eq_comm]
  · have h' : (s.reg x).toNat ≤ 15 := by omega
    simp [h', eq_comm]

/-- The information word of `MemoryBounds`: max(I, 0x1000) (R210). -/
theorem toNat_firstOutside (s : State) : s.firstOutside.toNat = max s.i.toNat 0x1000 := by
  unfold State.firstOutside Config.memSize
  split_ifs with h
  · rw [Nat.max_eq_right (Nat.le_of_lt h)]
    rfl
  · rw [Nat.max_eq_left (Nat.le_of_not_lt h)]

@[simp] theorem toNat_zext16 (b : Byte) : (zext16 b).toNat = b.toNat := by
  have := b.isLt
  simp only [zext16, BitVec.truncate_eq_setWidth, BitVec.toNat_setWidth]
  omega

@[simp] theorem toNat_addrOperand (a : Addr) : (addrOperand a).toNat = a.toNat := by
  have := a.isLt
  simp only [addrOperand, BitVec.truncate_eq_setWidth, BitVec.toNat_setWidth]
  omega

/-! ### Register ranges -/

@[simp] theorem length_regsTo (s : State) (x : Reg) : (s.regsTo x).length = x.val + 1 := by
  have := x.isLt
  simp only [State.regsTo, List.length_take, Vector.length_toList]
  omega

/-- The k-th byte Fx55 stores is register k. -/
@[simp] theorem getElem_regsTo (s : State) (x : Reg) (k : Nat) (h : k < (s.regsTo x).length) :
    (s.regsTo x)[k] = s.reg ⟨k, by have := x.isLt; rw [length_regsTo] at h; omega⟩ := by
  simp [State.regsTo, State.reg]

/-- What Fx65 leaves in a register. -/
@[simp] theorem getElem_loadRegsTo (s : State) (x q : Reg) :
    (s.loadRegsTo x)[q.val] = if q ≤ x then s.mem.read (s.ea q) else s.reg q := by
  simp [State.loadRegsTo]

@[simp] theorem length_bytesAtI (s : State) (n : Nat) : (s.bytesAtI n).length = n := by
  simp [State.bytesAtI]

/-! ### Timers -/

/-- A tick decrements a nonzero value and stops at zero (R232). -/
theorem toNat_timerTick (b : Byte) : (timerTick b).1.toNat = b.toNat - 1 := by
  revert b; decide

/-- A tick notifies exactly where it brings the value to zero (R232). -/
theorem timerTick_notice (b : Byte) : (timerTick b).2 = if b.toNat = 1 then some .stop else none := by
  revert b; decide

@[simp] theorem timerSet_value (old v : Byte) : (timerSet old v).1 = v := rfl

/-- A set notifies exactly where the value crosses between zero and nonzero (R233). -/
theorem timerSet_notice (old v : Byte) :
    (timerSet old v).2 =
      if old.toNat = 0 ∧ v.toNat ≠ 0 then some .start
      else if old.toNat ≠ 0 ∧ v.toNat = 0 then some .stop else none := by
  have h0 (b : Byte) : b = 0 ↔ b.toNat = 0 := by
    constructor
    · rintro rfl; rfl
    · intro h; exact BitVec.eq_of_toNat_eq h
  simp only [timerSet, h0, Nat.pos_iff_ne_zero, gt_iff_lt]

/-! ### Keys -/

theorem mem_pressedKeys (s : State) (k : Nat) : k ∈ s.pressedKeys ↔ k < 16 ∧ s.keys.getLsbD k = true := by
  simp [State.pressedKeys, State.isPressed]

/-- No key is pressed exactly where `KEYS = 0`. -/
theorem pressedKeys_ne_nil (s : State) (h : s.keys ≠ 0) : s.pressedKeys ≠ [] := by
  intro hn
  apply h
  apply BitVec.eq_of_getLsbD_eq
  intro k hk
  have hm : k ∉ s.pressedKeys := by simp [hn]
  rw [mem_pressedKeys] at hm
  simpa [hk] using hm

/-- The key taken is one of those pressed, whichever the draw (R196). -/
theorem chosenKey_mem (s : State) (ks : List Nat) (h : ks ≠ []) : s.chosenKey ks ∈ ks := by
  match ks, h with
  | [k], _ => simp [State.chosenKey]
  | k :: k' :: ks, _ =>
    simp only [State.chosenKey]
    have hlt : Config.freeKeyIndex s.draws % ((k' :: ks).length + 1) < (k :: k' :: ks).length :=
      Nat.mod_lt _ (Nat.succ_pos _)
    rw [List.getD_eq_getElem _ _ hlt]
    exact List.getElem_mem _

/-- With one key pressed there is no choice. -/
theorem chosenKey_single (s : State) (k : Nat) : s.chosenKey [k] = k := rfl

end Sys2Proof.Machine
end

