-- ==== Sys2Proof/Laws/Step.lean ====
section
/-! SUPPORT. What a cycle and a step can do, said once: the cases of R118 for the CPU, and one case per other agent. -/

namespace Sys2Proof.Machine

/-- A cycle takes one of the five ways of R118 before the instruction, or runs the instruction at PC. -/
theorem cycle_cases (s : State) :
    (s.run.terminal = true ∧ cycle s = .next s) ∨
    (s.run.terminal = false ∧ s.cancel = true ∧ cycle s = .next (s.setRun .cancelled)) ∨
    (s.run.terminal = false ∧ s.cancel = false ∧ 0x1000 ≤ s.pc.toNat ∧ cycle s = .next (s.setRun .haltedEnd)) ∨
    (s.run.terminal = false ∧ s.cancel = false ∧ s.pc.toNat < 0x1000 ∧ s.pc.getLsbD 0 = true ∧
      cycle s = .next (s.raise .misalignedFetch s.pc)) ∨
    (s.run.terminal = false ∧ s.cancel = false ∧ s.pc.toNat < 0x1000 ∧ s.pc.getLsbD 0 = false ∧ cycle s = s.runAtPC) := by
  unfold cycle
  cases h1 : s.run.terminal
  · cases h2 : s.cancel
    · by_cases h3 : Config.memSize ≤ s.pc.toNat
      · exact .inr (.inr (.inl ⟨rfl, rfl, h3, by simp [h3]⟩))
      · have h3' : s.pc.toNat < 0x1000 := Nat.lt_of_not_le h3
        cases h4 : s.pc.getLsbD 0
        · exact .inr (.inr (.inr (.inr ⟨rfl, rfl, h3', rfl, by simp [h3]⟩)))
        · exact .inr (.inr (.inr (.inl ⟨rfl, rfl, h3', rfl, by simp [h3]⟩)))
    · exact .inr (.inl ⟨rfl, rfl, by simp⟩)
  · exact .inl ⟨rfl, by simp⟩

/-- The bytes fetched are the two at PC (R116). -/
theorem fetchBytes_eq (s : State) : s.fetchBytes = [s.byteAt s.pc.toNat, s.byteAt (s.pc.toNat + 1)] := rfl

/-- Running at PC executes the instruction the two bytes dispatch to, or takes `IllegalInstruction` (R117). -/
theorem runAtPC_cases (s : State) :
    (∃ i, decode s.fetchBytes = .ok (i, []) ∧ s.runAtPC = exec i s) ∨
    (dispatch (.ofBytes (s.byteAt s.pc.toNat) (s.byteAt (s.pc.toNat + 1))) = none ∧
      s.runAtPC = .next (s.raise .illegalInstruction s.fetchWord)) := by
  unfold State.runAtPC
  rw [fetchBytes_eq]
  cases h : dispatch (.ofBytes (s.byteAt s.pc.toNat) (s.byteAt (s.pc.toNat + 1))) with
  | none => exact .inr ⟨rfl, by simp [decode, h]⟩
  | some i => exact .inl ⟨i, by simp [decode, h], by simp [decode, h]⟩

/-- One step is the step of the agent whose turn it is. -/
theorem step_eq (s : State) : step s = takeTurn s.turnTaken s.nextTurn := rfl

/-- The CPU's turn is a cycle. -/
theorem step_cpu {s : State} (h : s.nextTurn = .cpu) : step s = cycle s.turnTaken := by
  rw [step_eq, h]
  rfl

/-- What a step that answers a next state did: a cycle, a tick, an input, or a boot. -/
theorem step_cases {s t : State} (h : step s = .next t) :
    (s.nextTurn = .cpu ∧ cycle s.turnTaken = .next t) ∨
    (s.nextTurn = .tickDT ∧ t = s.turnTaken.dtTick) ∨
    (s.nextTurn = .tickST ∧ t = s.turnTaken.stTick) ∨
    (∃ w, s.nextTurn = .keys w ∧ t = { s.turnTaken with keys := w }) ∨
    (∃ b, s.nextTurn = .rnd b ∧ t = { s.turnTaken with rndIn := s.rndIn ++ [b] }) ∨
    (∃ c, s.nextTurn = .reply c ∧ t = { s.turnTaken with display := s.display.supply c }) ∨
    (s.nextTurn = .cancel ∧ t = { s.turnTaken with cancel := true }) ∨
    (∃ f rom, s.nextTurn = .init f (.bytes rom) ∧ rom.length ≤ 3584 ∧ t = s.turnTaken.boot f rom) := by
  rw [step_eq] at h
  cases hn : s.nextTurn with
  | cpu => rw [hn] at h; exact .inl ⟨rfl, h⟩
  | tickDT => rw [hn] at h; cases h; exact .inr (.inl ⟨rfl, rfl⟩)
  | tickST => rw [hn] at h; cases h; exact .inr (.inr (.inl ⟨rfl, rfl⟩))
  | keys w => rw [hn] at h; cases h; exact .inr (.inr (.inr (.inl ⟨w, rfl, rfl⟩)))
  | rnd b => rw [hn] at h; cases h; exact .inr (.inr (.inr (.inr (.inl ⟨b, rfl, rfl⟩))))
  | reply c => rw [hn] at h; cases h; exact .inr (.inr (.inr (.inr (.inr (.inl ⟨c, rfl, rfl⟩)))))
  | cancel => rw [hn] at h; cases h; exact .inr (.inr (.inr (.inr (.inr (.inr (.inl ⟨rfl, rfl⟩))))))
  | init f rom =>
    rw [hn] at h
    cases rom with
    | readFailure => cases h
    | bytes rom =>
      simp only [takeTurn, State.init] at h
      split_ifs at h with hl
      cases h
      exact .inr (.inr (.inr (.inr (.inr (.inr (.inr ⟨f, rom, rfl, hl, rfl⟩))))))

/-- A run goes on from what its first step answers. -/
theorem run_succ {k : Nat} {s t : State} (h : step s = .next t) :
    Sys2Proof.core.run (k + 1) s = Sys2Proof.core.run k t := by
  have h' : Sys2Proof.core.step s = .next t := h
  simp only [Host.Core.run, h']

/-! ### What taking a fault leaves -/

/-- `State.raise` is what the claims call `Raised`. -/
theorem raised_raise (s : State) (c : FaultCode) (w : Word) : Raised s (s.raise c w) c w.toNat := by
  refine ⟨rfl, ⟨w, rfl, rfl⟩, rfl, fun _ _ => rfl, fun _ _ => rfl, fun p hp => ?_⟩
  cases p <;> simp_all [Part.same]

/-! ### The meanings that branch on their own -/

/-- 00EE underflows, pops, or names no stack entry. -/
theorem execRet_cases (s : State) :
    (s.sp = 0 ∧ execRet s = .next (s.raise .stackUnderflow (zext16 s.sp))) ∨
    (∃ h : s.sp.toNat - 1 < 16, s.sp ≠ 0 ∧ execRet s = .next (s.jump s.stack[s.sp.toNat - 1]).pop) ∨
    (16 < s.sp.toNat ∧ execRet s = .fault (.noStackEntry s.sp)) := by
  unfold execRet
  by_cases h0 : s.sp = 0
  · exact .inl ⟨h0, if_pos h0⟩
  · by_cases h : s.sp.toNat - 1 < 16
    · exact .inr (.inl ⟨h, h0, by rw [if_neg h0, dif_pos h]⟩)
    · exact .inr (.inr ⟨by omega, by rw [if_neg h0, dif_neg h]⟩)

/-- 2nnn overflows, pushes, or names no stack entry. -/
theorem execCall_cases (nnn : Addr) (s : State) :
    (s.sp.toNat = 16 ∧ execCall nnn s = .next (s.raise .stackOverflow (zext16 s.sp))) ∨
    (∃ h : s.sp.toNat < 16, execCall nnn s = .next ((s.push (s.pc + 2) h).jump (addrOperand nnn))) ∨
    (16 < s.sp.toNat ∧ execCall nnn s = .fault (.noStackEntry s.sp)) := by
  unfold execCall
  by_cases h0 : s.sp = 16
  · exact .inl ⟨by rw [h0]; rfl, if_pos h0⟩
  · have hn : s.sp.toNat ≠ 16 := fun h => h0 (BitVec.eq_of_toNat_eq h)
    by_cases h : s.sp.toNat < 16
    · exact .inr (.inl ⟨h, by rw [if_neg h0, dif_pos h]⟩)
    · exact .inr (.inr ⟨by omega, by rw [if_neg h0, dif_neg h]⟩)

end Sys2Proof.Machine
end

