-- ==== Sys2Proof/Laws/Init.lean ====
section
/-! SUPPORT. `INIT`: what memory reads as after it, that its memory is in the canonical form, and what its turn answers. -/

namespace Sys2Proof.Machine

/-- Memory after `INIT`: the ROM from 0x200, the font and zeros elsewhere (R262). -/
theorem read_initMemory (f : Font) (rom : List Byte) (a : Nat) :
    (initMemory f rom).read a =
      if h : 0x200 ≤ a ∧ a < 0x200 + rom.length then rom[a - 0x200]'(by omega) else fontByte f a := by
  unfold initMemory Config.progBase
  rw [Memory.read_writeBytes]
  by_cases hc : 0x200 ≤ a ∧ a < 0x200 + rom.length
  · rw [dif_pos hc, dif_pos hc]
  · rw [dif_neg hc, dif_neg hc, Memory.read_writeBytes]
    by_cases h2 : a < 80
    · rw [dif_pos (by simp [fontBytes, h2])]
      simp [fontBytes]
    · rw [dif_neg (by simp [fontBytes, h2])]
      show fontByte _ a = fontByte f a
      rw [fontByte, fontByte, dif_neg h2, dif_neg h2]

/-- Byte j of glyph g (R59). -/
theorem fontByte_glyph (f : Font) {g j : Nat} (hg : g < 16) (hj : j < 5) : fontByte f (5 * g + j) = f[g][j] := by
  rw [fontByte, dif_pos (by omega)]
  simp [show (5 * g + j) / 5 = g by omega, show (5 * g + j) % 5 = j by omega]

/-- Outside 0x000..0x04F a font table says nothing. -/
theorem fontByte_outside (f : Font) {a : Nat} (h : 0x050 ≤ a) : fontByte f a = 0 := by
  rw [fontByte, dif_neg (by omega)]

/-- Memory after `INIT` is in the canonical form. -/
theorem wf_initMemory (f : Font) {rom : List Byte} (h : rom.length ≤ 3584) : (initMemory f rom).wf := by
  unfold initMemory
  apply Memory.wf_writeBytes
  · apply Memory.wf_writeBytes _ Memory.wf_nil
    simp [fontBytes, Config.memSize]
  · simp only [Config.progBase, Config.memSize]
    omega

/-- The turn `init` boots a ROM that fits. -/
theorem step_init {s : State} {f : Font} {rom : List Byte} (h : s.nextTurn = .init f (.bytes rom)) (hl : rom.length ≤ 3584) :
    step s = .next (s.turnTaken.boot f rom) := by
  simp only [step_eq, h, takeTurn, State.init]
  exact if_pos hl

/-- The turn `init` refuses a ROM that does not fit. -/
theorem step_init_tooLong {s : State} {f : Font} {rom : List Byte} (h : s.nextTurn = .init f (.bytes rom))
    (hl : 3584 < rom.length) : step s = .refused (.bootError .romTooLong) := by
  simp only [step_eq, h, takeTurn, State.init]
  exact if_neg (Nat.not_le.2 hl)

end Sys2Proof.Machine
end

