-- ==== Sys2Proof/Laws/PerInstr.lean ====
section
/-! SUPPORT. A law of every instruction as syntax: the word of its encoding fits the row of the opcode map that stands for it (R86). -/

namespace Sys2Proof.Laws.OnItsRow

/-- The word an instruction is encoded by fits, by mask and match, its row of R86. -/
def Statement (i : Instr) : Prop := ∃ r ∈ opcodeRows, r.number = i.row ∧ r.fits (encode i) = true

theorem and_fifteen (a : Nibble) : a &&& 15#4 = a := by revert a; decide

/-- Formats NNN, XKK and XYN: the first nibble is fixed. -/
theorem of_o1 {i : Instr} (k : Nat) (value : Nibbles) (hrow : ⟨k, (Nibbles.mk 0xF 0 0 0).word, value.word⟩ ∈ opcodeRows)
    (hk : k = i.row) (h1 : i.nibbles.o1 = value.o1) (h2 : value.o2 = 0) (h3 : value.o3 = 0) (h4 : value.o4 = 0) : Statement i :=
  ⟨_, hrow, hk, (fits_word _ _ _ _).2 (by simp [h1, h2, h3, h4, and_fifteen])⟩

/-- Format XY: the first and the last nibble are fixed. -/
theorem of_o1_o4 {i : Instr} (k : Nat) (value : Nibbles) (hrow : ⟨k, (Nibbles.mk 0xF 0 0 0xF).word, value.word⟩ ∈ opcodeRows)
    (hk : k = i.row) (h1 : i.nibbles.o1 = value.o1) (h2 : value.o2 = 0) (h3 : value.o3 = 0) (h4 : i.nibbles.o4 = value.o4) : Statement i :=
  ⟨_, hrow, hk, (fits_word _ _ _ _).2 (by simp [h1, h2, h3, h4, and_fifteen])⟩

/-- Format XLL: all but the second nibble are fixed. -/
theorem of_o1_lo {i : Instr} (k : Nat) (value : Nibbles) (hrow : ⟨k, (Nibbles.mk 0xF 0 0xF 0xF).word, value.word⟩ ∈ opcodeRows)
    (hk : k = i.row) (h1 : i.nibbles.o1 = value.o1) (h2 : value.o2 = 0) (h3 : i.nibbles.o3 = value.o3) (h4 : i.nibbles.o4 = value.o4) : Statement i :=
  ⟨_, hrow, hk, (fits_word _ _ _ _).2 (by simp [h1, h2, h3, h4, and_fifteen])⟩

theorem cls : Statement .cls := ⟨⟨1, 0xFFFF, 0x00E0⟩, by decide, rfl, by decide⟩

theorem ret : Statement .ret := ⟨⟨2, 0xFFFF, 0x00EE⟩, by decide, rfl, by decide⟩

theorem sys (nnn : Addr) : Statement (.sys nnn) :=
  of_o1 3 ⟨0x0, 0x0, 0x0, 0x0⟩ (by decide) rfl rfl rfl rfl rfl

theorem jp (nnn : Addr) : Statement (.jp nnn) :=
  of_o1 4 ⟨0x1, 0x0, 0x0, 0x0⟩ (by decide) rfl rfl rfl rfl rfl

theorem call (nnn : Addr) : Statement (.call nnn) :=
  of_o1 5 ⟨0x2, 0x0, 0x0, 0x0⟩ (by decide) rfl rfl rfl rfl rfl

theorem seImm (x : Reg) (kk : Byte) : Statement (.seImm x kk) :=
  of_o1 6 ⟨0x3, 0x0, 0x0, 0x0⟩ (by decide) rfl rfl rfl rfl rfl

theorem sneImm (x : Reg) (kk : Byte) : Statement (.sneImm x kk) :=
  of_o1 7 ⟨0x4, 0x0, 0x0, 0x0⟩ (by decide) rfl rfl rfl rfl rfl

theorem seReg (x : Reg) (y : Reg) : Statement (.seReg x y) :=
  of_o1_o4 8 ⟨0x5, 0x0, 0x0, 0x0⟩ (by decide) rfl rfl rfl rfl rfl

theorem ldImm (x : Reg) (kk : Byte) : Statement (.ldImm x kk) :=
  of_o1 9 ⟨0x6, 0x0, 0x0, 0x0⟩ (by decide) rfl rfl rfl rfl rfl

theorem addImm (x : Reg) (kk : Byte) : Statement (.addImm x kk) :=
  of_o1 10 ⟨0x7, 0x0, 0x0, 0x0⟩ (by decide) rfl rfl rfl rfl rfl

theorem ldReg (x : Reg) (y : Reg) : Statement (.ldReg x y) :=
  of_o1_o4 11 ⟨0x8, 0x0, 0x0, 0x0⟩ (by decide) rfl rfl rfl rfl rfl

theorem orReg (x : Reg) (y : Reg) : Statement (.orReg x y) :=
  of_o1_o4 12 ⟨0x8, 0x0, 0x0, 0x1⟩ (by decide) rfl rfl rfl rfl rfl

theorem andReg (x : Reg) (y : Reg) : Statement (.andReg x y) :=
  of_o1_o4 13 ⟨0x8, 0x0, 0x0, 0x2⟩ (by decide) rfl rfl rfl rfl rfl

theorem xorReg (x : Reg) (y : Reg) : Statement (.xorReg x y) :=
  of_o1_o4 14 ⟨0x8, 0x0, 0x0, 0x3⟩ (by decide) rfl rfl rfl rfl rfl

theorem addReg (x : Reg) (y : Reg) : Statement (.addReg x y) :=
  of_o1_o4 15 ⟨0x8, 0x0, 0x0, 0x4⟩ (by decide) rfl rfl rfl rfl rfl

theorem sub (x : Reg) (y : Reg) : Statement (.sub x y) :=
  of_o1_o4 16 ⟨0x8, 0x0, 0x0, 0x5⟩ (by decide) rfl rfl rfl rfl rfl

theorem shr (x : Reg) (y : Reg) : Statement (.shr x y) :=
  of_o1_o4 17 ⟨0x8, 0x0, 0x0, 0x6⟩ (by decide) rfl rfl rfl rfl rfl

theorem subn (x : Reg) (y : Reg) : Statement (.subn x y) :=
  of_o1_o4 18 ⟨0x8, 0x0, 0x0, 0x7⟩ (by decide) rfl rfl rfl rfl rfl

theorem shl (x : Reg) (y : Reg) : Statement (.shl x y) :=
  of_o1_o4 19 ⟨0x8, 0x0, 0x0, 0xE⟩ (by decide) rfl rfl rfl rfl rfl

theorem sneReg (x : Reg) (y : Reg) : Statement (.sneReg x y) :=
  of_o1_o4 20 ⟨0x9, 0x0, 0x0, 0x0⟩ (by decide) rfl rfl rfl rfl rfl

theorem ldI (nnn : Addr) : Statement (.ldI nnn) :=
  of_o1 21 ⟨0xA, 0x0, 0x0, 0x0⟩ (by decide) rfl rfl rfl rfl rfl

theorem jpV0 (nnn : Addr) : Statement (.jpV0 nnn) :=
  of_o1 22 ⟨0xB, 0x0, 0x0, 0x0⟩ (by decide) rfl rfl rfl rfl rfl

theorem rnd (x : Reg) (kk : Byte) : Statement (.rnd x kk) :=
  of_o1 23 ⟨0xC, 0x0, 0x0, 0x0⟩ (by decide) rfl rfl rfl rfl rfl

theorem drw (x : Reg) (y : Reg) (n : Nibble) : Statement (.drw x y n) :=
  of_o1 24 ⟨0xD, 0x0, 0x0, 0x0⟩ (by decide) rfl rfl rfl rfl rfl

theorem skp (x : Reg) : Statement (.skp x) :=
  of_o1_lo 25 ⟨0xE, 0x0, 0x9, 0xE⟩ (by decide) rfl rfl rfl rfl rfl

theorem sknp (x : Reg) : Statement (.sknp x) :=
  of_o1_lo 26 ⟨0xE, 0x0, 0xA, 0x1⟩ (by decide) rfl rfl rfl rfl rfl

theorem ldVxDT (x : Reg) : Statement (.ldVxDT x) :=
  of_o1_lo 27 ⟨0xF, 0x0, 0x0, 0x7⟩ (by decide) rfl rfl rfl rfl rfl

theorem ldVxK (x : Reg) : Statement (.ldVxK x) :=
  of_o1_lo 28 ⟨0xF, 0x0, 0x0, 0xA⟩ (by decide) rfl rfl rfl rfl rfl

theorem ldDTVx (x : Reg) : Statement (.ldDTVx x) :=
  of_o1_lo 29 ⟨0xF, 0x0, 0x1, 0x5⟩ (by decide) rfl rfl rfl rfl rfl

theorem ldSTVx (x : Reg) : Statement (.ldSTVx x) :=
  of_o1_lo 30 ⟨0xF, 0x0, 0x1, 0x8⟩ (by decide) rfl rfl rfl rfl rfl

theorem addIVx (x : Reg) : Statement (.addIVx x) :=
  of_o1_lo 31 ⟨0xF, 0x0, 0x1, 0xE⟩ (by decide) rfl rfl rfl rfl rfl

theorem ldFVx (x : Reg) : Statement (.ldFVx x) :=
  of_o1_lo 32 ⟨0xF, 0x0, 0x2, 0x9⟩ (by decide) rfl rfl rfl rfl rfl

theorem ldBVx (x : Reg) : Statement (.ldBVx x) :=
  of_o1_lo 33 ⟨0xF, 0x0, 0x3, 0x3⟩ (by decide) rfl rfl rfl rfl rfl

theorem ldMemVx (x : Reg) : Statement (.ldMemVx x) :=
  of_o1_lo 34 ⟨0xF, 0x0, 0x5, 0x5⟩ (by decide) rfl rfl rfl rfl rfl

theorem ldVxMem (x : Reg) : Statement (.ldVxMem x) :=
  of_o1_lo 35 ⟨0xF, 0x0, 0x6, 0x5⟩ (by decide) rfl rfl rfl rfl rfl

end Sys2Proof.Laws.OnItsRow
end

