-- ==== Sys2Proof/Laws/Words.lean ====
section
/-! SUPPORT. The words the claims write out format by format are the words of the encoder's nibbles, and what they dispatch to. -/

namespace Sys2Proof.Machine

/-- A nibble in front of other bits, as a number. -/
theorem toNat_nibble_append {n : Nat} (a : Nibble) (b : BitVec n) : (a ++ b).toNat = a.toNat * 2 ^ n + b.toNat := by
  rw [BitVec.toNat_append, ← Nat.shiftLeft_add_eq_or_of_lt b.isLt, Nat.shiftLeft_eq]

theorem wordNNN_eq (o : Nibble) (a : Addr) : wordNNN o a = (fmtNNN o a).word := by
  apply BitVec.eq_of_toNat_eq
  have h : (wordNNN o a).toNat = o.toNat * 4096 + a.toNat := toNat_nibble_append _ _
  have := a.isLt
  rw [toNat_word, h]
  simp only [fmtNNN, BitVec.extractLsb'_toNat, Nat.shiftRight_eq_div_pow]
  omega

theorem wordXKK_eq (o : Nibble) (x : Reg) (kk : Byte) : wordXKK o x kk = (fmtXKK o x kk).word := by
  apply BitVec.eq_of_toNat_eq
  have h : (wordXKK o x kk).toNat = (o ++ regNibble x : Byte).toNat * 256 + kk.toNat := toNat_append_bytes _ _
  have := kk.isLt
  rw [toNat_word, h, toNat_append_nibbles]
  simp only [fmtXKK, regNibble, BitVec.extractLsb'_toNat, Nat.shiftRight_eq_div_pow]
  omega

theorem wordXYN_eq (o : Nibble) (x y : Reg) (n : Nibble) : wordXYN o x y n = (fmtXYN o x y n).word := by
  apply BitVec.eq_of_toNat_eq
  have h : (wordXYN o x y n).toNat = (o ++ regNibble x ++ regNibble y : BitVec 12).toNat * 16 + n.toNat := by
    unfold wordXYN
    rw [BitVec.toNat_append, ← Nat.shiftLeft_add_eq_or_of_lt n.isLt, Nat.shiftLeft_eq]
  rw [toNat_word, h, toNat_nnn]
  simp only [fmtXYN, regNibble]
  omega

/-- A word of format NNN decodes as its nibbles dispatch; likewise the other two formats. -/
theorem decodeWord_wordNNN (o : Nibble) (a : Addr) : decodeWord (wordNNN o a) = dispatch (fmtNNN o a) := by
  rw [wordNNN_eq, decodeWord_word]

theorem decodeWord_wordXKK (o : Nibble) (x : Reg) (kk : Byte) : decodeWord (wordXKK o x kk) = dispatch (fmtXKK o x kk) := by
  rw [wordXKK_eq, decodeWord_word]

theorem decodeWord_wordXYN (o : Nibble) (x y : Reg) (n : Nibble) :
    decodeWord (wordXYN o x y n) = dispatch (fmtXYN o x y n) := by
  rw [wordXYN_eq, decodeWord_word]

end Sys2Proof.Machine
end

