-- ==== Sys2Proof/Tests/Slice0.lean ====
section
/-! SUPPORT. Tests. Expected results come from the spec: words written out from R82 and R86, the vectors of 95_test_vectors.md (named
beside each), or hand calculation from the rule named. Then one witness for every statement with hypotheses. -/

namespace Sys2Proof.Tests

open Sys2Proof.Machine

/-! ### Helpers -/

/-- The state after reset with the CPU's turn next. -/
def ready : State := { State.reset with agenda := [.cpu] }

/-- The state after reset with some registers set. -/
def withRegs (l : List (Reg × Byte)) : State := l.foldl (fun s p => s.setReg p.1 p.2) State.reset

/-- One step on a word placed where the CPU fetches, read through `f`; none where the step stops. -/
def after {α : Type} (s : State) (w : Nat) (f : State → α) : Option α :=
  match step (s.withFetchWord 16 w) with
  | .next t => some (f t)
  | .fault _ => none
  | .refused _ => none

/-- One step of the agent whose turn is next, read through `f`. -/
def turn {α : Type} (s : State) (f : State → α) : Option α :=
  match step s with
  | .next t => some (f t)
  | .fault _ => none
  | .refused _ => none

/-- The state after reset with I and memory bytes from I. -/
def withBytes (i : Word) (bs : List Byte) : State :=
  let s := State.reset.setIndex i
  s.setMem (s.storeAtI bs)

/-- A memory byte pair placed at an address. -/
def wordAt (s : State) (a : Nat) (b0 b1 : Byte) : State := s.setMem ((s.mem.write a b0).write (a + 1) b1)

/-! ### Well-formedness -/

/-- 0x00E0 and 0x00EE are never 0nnn (R84). -/
theorem test_wf_refuses_sys_0E0 : (Instr.sys 0x0E0).wf = false := by decide

theorem test_wf_refuses_sys_0EE : (Instr.sys 0x0EE).wf = false := by decide

theorem test_wf_accepts_sys_0E1 : (Instr.sys 0x0E1).wf = true := by decide

/-- What the check is for: the words of the ill-formed terms are other instructions' (R84). -/
theorem test_ill_formed_words : decodeWord (encode (.sys 0x0E0)) = some .cls ∧ decodeWord (encode (.sys 0x0EE)) = some .ret := by
  decide

/-! ### Decoding: one word for each constructor, written out from R82 and R86 -/

theorem test_decode_00E0 : decodeWord 0b0000_0000_1110_0000 = some .cls := by decide
theorem test_decode_00EE : decodeWord 0b0000_0000_1110_1110 = some .ret := by decide
theorem test_decode_0nnn : decodeWord 0b0000_0001_0010_0011 = some (.sys 0x123) := by decide
theorem test_decode_1nnn : decodeWord 0b0001_1010_1011_1100 = some (.jp 0xABC) := by decide
theorem test_decode_2nnn : decodeWord 0b0010_0010_0000_1100 = some (.call 0x20C) := by decide
theorem test_decode_3xkk : decodeWord 0b0011_1010_0001_0010 = some (.seImm 0xA 0x12) := by decide
theorem test_decode_4xkk : decodeWord 0b0100_1011_0010_0001 = some (.sneImm 0xB 0x21) := by decide
theorem test_decode_5xy0 : decodeWord 0b0101_0001_0010_0000 = some (.seReg 1 2) := by decide
theorem test_decode_6xkk : decodeWord 0b0110_1010_0010_1111 = some (.ldImm 0xA 0x2F) := by decide
theorem test_decode_7xkk : decodeWord 0b0111_0000_0000_0010 = some (.addImm 0 0x02) := by decide
theorem test_decode_8xy0 : decodeWord 0b1000_0001_0010_0000 = some (.ldReg 1 2) := by decide
theorem test_decode_8xy1 : decodeWord 0b1000_0011_0100_0001 = some (.orReg 3 4) := by decide
theorem test_decode_8xy2 : decodeWord 0b1000_0101_0110_0010 = some (.andReg 5 6) := by decide
theorem test_decode_8xy3 : decodeWord 0b1000_0111_1000_0011 = some (.xorReg 7 8) := by decide
theorem test_decode_8xy4 : decodeWord 0b1000_1001_1010_0100 = some (.addReg 9 10) := by decide
theorem test_decode_8xy5 : decodeWord 0b1000_1011_1100_0101 = some (.sub 11 12) := by decide
theorem test_decode_8xy6 : decodeWord 0b1000_1101_1110_0110 = some (.shr 13 14) := by decide
theorem test_decode_8xy7 : decodeWord 0b1000_1111_0001_0111 = some (.subn 15 1) := by decide
theorem test_decode_8xyE : decodeWord 0b1000_0001_1111_1110 = some (.shl 1 15) := by decide
theorem test_decode_9xy0 : decodeWord 0b1001_0010_0001_0000 = some (.sneReg 2 1) := by decide
theorem test_decode_Annn : decodeWord 0b1010_0001_0010_0011 = some (.ldI 0x123) := by decide
theorem test_decode_Bnnn : decodeWord 0b1011_1111_1111_1111 = some (.jpV0 0xFFF) := by decide
theorem test_decode_Cxkk : decodeWord 0b1100_0011_0000_1111 = some (.rnd 3 0x0F) := by decide
theorem test_decode_Dxyn : decodeWord 0b1101_0001_0010_0101 = some (.drw 1 2 5) := by decide
theorem test_decode_Ex9E : decodeWord 0b1110_0101_1001_1110 = some (.skp 5) := by decide
theorem test_decode_ExA1 : decodeWord 0b1110_0110_1010_0001 = some (.sknp 6) := by decide
theorem test_decode_Fx07 : decodeWord 0b1111_0001_0000_0111 = some (.ldVxDT 1) := by decide
theorem test_decode_Fx0A : decodeWord 0b1111_0011_0000_1010 = some (.ldVxK 3) := by decide
theorem test_decode_Fx15 : decodeWord 0b1111_0001_0001_0101 = some (.ldDTVx 1) := by decide
theorem test_decode_Fx18 : decodeWord 0b1111_0010_0001_1000 = some (.ldSTVx 2) := by decide
theorem test_decode_Fx1E : decodeWord 0b1111_0100_0001_1110 = some (.addIVx 4) := by decide
theorem test_decode_Fx29 : decodeWord 0b1111_0111_0010_1001 = some (.ldFVx 7) := by decide
theorem test_decode_Fx33 : decodeWord 0b1111_1000_0011_0011 = some (.ldBVx 8) := by decide
theorem test_decode_Fx55 : decodeWord 0b1111_1001_0101_0101 = some (.ldMemVx 9) := by decide
theorem test_decode_Fx65 : decodeWord 0b1111_1010_0110_0101 = some (.ldVxMem 10) := by decide

/-- Vectors IL1 to IL5. -/
theorem test_decode_unassigned :
    [0x5121, 0x9AB5, 0x8008, 0x8128, 0x800F, 0xE19F, 0xE000, 0xE0A2, 0xF000, 0xF102, 0xF130, 0xF175, 0xF185, 0xF1FF].all
      (fun w => decodeWord w == none) = true := by decide

/-- Vector IL6. -/
theorem test_decode_sys_words :
    decodeWord 0x00E1 = some (.sys 0x0E1) ∧ decodeWord 0x00FF = some (.sys 0x0FF) ∧ decodeWord 0x0000 = some (.sys 0x000) := by
  decide

/-- Big-endian, two bytes, the rest left (R52, R80). -/
theorem test_decode_bytes : decode [0x6A, 0x2F, 0x12] = .ok (.ldImm 0xA 0x2F, [0x12]) := by rfl

theorem test_decode_truncated : decode [0x6A] = .error .truncated := by rfl

theorem test_decodeTableWord : decodeTableWord 16 0xD125 = some (.drw 1 2 5) := by decide

/-! ### One step per instruction -/

/-- Vector DR11. -/
theorem test_00E0 :
    after { State.reset with display := .reference (Grid.blank.setPixel 3 4 true) } 0x00E0
      (fun t => (t.events, t.pc, t.display)) = some ([.displayClear], 0x202, .reference Grid.blank) := by decide

/-- Vector FL5. -/
theorem test_00EE :
    after (State.reset.push 0x208 (by decide)) 0x00EE (fun t => (t.pc, t.sp, t.stack[0])) = some (0x208, 0, 0x208) := by decide

/-- Vector FL6. -/
theorem test_00EE_underflow :
    after State.reset 0x00EE (fun t => (t.run, t.fault)) = some (.faulted, some ⟨.stackUnderflow, 0x200, 0⟩) := by decide

/-- Vector FL3. -/
theorem test_0nnn : after State.reset 0x0123 (fun t => (t.pc, t.sp)) = some (0x123, 0) := by decide

/-- Vector FL1. -/
theorem test_1nnn : after State.reset 0x1ABC (·.pc) = some 0xABC := by decide

/-- Vector FL4. -/
theorem test_2nnn : after State.reset 0x2300 (fun t => (t.pc, t.sp, t.stack[0])) = some (0x300, 1, 0x202) := by decide

/-- Vector FL7. -/
theorem test_2nnn_overflow :
    after { State.reset with sp := 16 } 0x2300 (fun t => (t.fault, t.sp)) = some (some ⟨.stackOverflow, 0x200, 16⟩, 16) := by decide

/-- Vectors SK1, SK2. -/
theorem test_3xkk : after (withRegs [(10, 0x12)]) 0x3A12 (·.pc) = some 0x204 ∧ after (withRegs [(10, 0x13)]) 0x3A12 (·.pc) = some 0x202 := by
  decide

/-- Vector SK10. -/
theorem test_3xkk_at_end : after { State.reset with pc := 0x0FFE } 0x3000 (fun t => (t.pc, t.run)) = some (0x1002, .running) := by decide

/-- Vectors SK3, SK4. -/
theorem test_4xkk : after (withRegs [(10, 0x12)]) 0x4A12 (·.pc) = some 0x202 ∧ after (withRegs [(10, 0x13)]) 0x4A12 (·.pc) = some 0x204 := by
  decide

/-- Vectors SK5, SK6. -/
theorem test_5xy0 : after (withRegs [(1, 7), (2, 7)]) 0x5120 (·.pc) = some 0x204 ∧ after (withRegs [(1, 7), (2, 8)]) 0x5120 (·.pc) = some 0x202 := by
  decide

/-- Vectors SK7, SK8. -/
theorem test_9xy0 : after (withRegs [(1, 7), (2, 7)]) 0x9120 (·.pc) = some 0x202 ∧ after (withRegs [(1, 7), (2, 8)]) 0x9120 (·.pc) = some 0x204 := by
  decide

/-- Vector CY1. -/
theorem test_6xkk : after State.reset 0x6A2F (fun t => (t.reg 10, t.pc)) = some (0x2F, 0x202) := by decide

/-- Vectors AL2, AL3. -/
theorem test_7xkk : after (withRegs [(0, 0xFF), (VF, 1)]) 0x7002 (fun t => (t.reg 0, t.reg VF)) = some (0x01, 1) ∧
    after (withRegs [(VF, 0xFF)]) 0x7F01 (·.reg VF) = some 0 := by decide

/-- Vector AL4. -/
theorem test_8xy0 : after (withRegs [(2, 0x55)]) 0x8120 (fun t => (t.reg 1, t.reg 2)) = some (0x55, 0x55) := by decide

/-- Vector AL5. -/
theorem test_8xy1 : after (withRegs [(1, 0xF0), (2, 0x0F), (VF, 1)]) 0x8121 (fun t => (t.reg 1, t.reg VF)) = some (0xFF, 1) := by decide

/-- Vector AL6. -/
theorem test_8xy2 : after (withRegs [(1, 0xF0), (2, 0x3C)]) 0x8122 (·.reg 1) = some 0x30 := by decide

/-- Vectors AL7, AL8. -/
theorem test_8xy3 : after (withRegs [(1, 0xF0), (2, 0x3C)]) 0x8123 (·.reg 1) = some 0xCC ∧
    after (withRegs [(1, 0xF0)]) 0x8113 (·.reg 1) = some 0 := by decide

/-- Vectors S3, AL9. -/
theorem test_8xy4 : after (withRegs [(1, 0xFF), (2, 0x01)]) 0x8124 (fun t => (t.reg 1, t.reg VF)) = some (0, 1) ∧
    after (withRegs [(1, 0x81)]) 0x8114 (fun t => (t.reg 1, t.reg VF)) = some (0x02, 1) := by decide

/-- Vectors AL10, AL11. -/
theorem test_8xy4_VF : after (withRegs [(1, 0xFF), (VF, 0x01)]) 0x81F4 (fun t => (t.reg 1, t.reg VF)) = some (0, 1) ∧
    after (withRegs [(VF, 0xF0), (1, 0x20)]) 0x8F14 (·.reg VF) = some 1 := by decide

/-- Vectors S4, AL14. -/
theorem test_8xy5 : after (withRegs [(1, 3), (2, 5)]) 0x8125 (fun t => (t.reg 1, t.reg VF)) = some (0xFE, 0) ∧
    after (withRegs [(1, 7)]) 0x8115 (fun t => (t.reg 1, t.reg VF)) = some (0, 0) := by decide

/-- Vectors AL16, AL18. -/
theorem test_8xy5_VF : after (withRegs [(VF, 9), (1, 3)]) 0x8F15 (·.reg VF) = some 0xFE ∧
    after (withRegs [(1, 5), (VF, 3)]) 0x81F5 (fun t => (t.reg VF, t.reg 1)) = some (1, 4) := by decide

/-- Vector AL22. -/
theorem test_8xy6 : after (withRegs [(1, 5), (2, 0xFF)]) 0x8126 (fun t => (t.reg 1, t.reg VF, t.reg 2)) = some (2, 1, 0xFF) := by decide

/-- Vector AL23. -/
theorem test_8xy6_VF : after (withRegs [(VF, 3)]) 0x8F06 (·.reg VF) = some 0 ∧ after (withRegs [(VF, 0xFF)]) 0x8FF6 (·.reg VF) = some 0 := by
  decide

/-- Vectors AL24, AL25. -/
theorem test_8xy7 : after (withRegs [(1, 3), (2, 5)]) 0x8127 (fun t => (t.reg 1, t.reg VF)) = some (2, 1) ∧
    after (withRegs [(1, 5), (2, 3)]) 0x8127 (fun t => (t.reg 1, t.reg VF)) = some (0xFE, 0) := by decide

/-- Vectors AL26, AL29. -/
theorem test_8xy7_VF : after (withRegs [(VF, 2), (1, 9)]) 0x8F17 (·.reg VF) = some 0x08 ∧
    after (withRegs [(1, 5), (VF, 3)]) 0x81F7 (fun t => (t.reg VF, t.reg 1)) = some (0, 0xFB) := by decide

/-- Vector AL31. -/
theorem test_8xyE : after (withRegs [(1, 0x81)]) 0x810E (fun t => (t.reg 1, t.reg VF)) = some (0x02, 1) := by decide

/-- Vectors AL32, AL33. -/
theorem test_8xyE_VF : after (withRegs [(VF, 0x80)]) 0x8F0E (·.reg VF) = some 0x02 ∧ after (withRegs [(VF, 0x7F)]) 0x8F0E (·.reg VF) = some 0 := by
  decide

/-- Vector IM1. -/
theorem test_Annn : after State.reset 0xA123 (fun t => (t.i, t.pc)) = some (0x123, 0x202) := by decide

/-- Vectors FL8, FL10. -/
theorem test_Bnnn : after (withRegs [(0, 0x10)]) 0xB300 (·.pc) = some 0x310 ∧ after (withRegs [(0, 0xFF)]) 0xBFFF (·.pc) = some 0x10FE := by
  decide

/-- Vector RN1. -/
theorem test_Cxkk : after { State.reset with rndIn := [0xA7, 0x11] } 0xC30F (fun t => (t.reg 3, t.rndIn)) = some (0x07, [0x11]) := by decide

/-- Vector RN2, with no sample supplied: the mask 0 leaves nothing of the free value. -/
theorem test_Cxkk_free : after (withRegs [(3, 9)]) 0xC300 (·.draws) = some 1 := by decide

/-- Vectors DR1, DR3: no collision on a blank grid, and one where a pixel goes from lit to unlit. -/
theorem test_Dxyn :
    after (withBytes 0x300 [0xF0]) 0xD011 (fun t => (t.reg VF, t.events)) = some (0, [.displayDraw 0 0 [0xF0] false]) ∧
    after { withBytes 0x300 [0xC0] with display := .reference (Grid.blank.setPixel 0 1 true) } 0xD011
      (fun t => (t.reg VF, t.display)) = some (1, .reference (Grid.blank.setPixel 0 0 true)) := by decide

/-- Vector DR6: an empty sprite collides with nothing, an external Display's supplied reply waits, and there is no fault. -/
theorem test_Dxyn_empty :
    after { withRegs [(VF, 1)] with i := 0xFFFF, display := .external [true] } 0xD010 (fun t => (t.reg VF, t.display, t.fault)) =
      some (0, .external [true], none) := by decide

/-- Vectors KB1, KB2. -/
theorem test_Ex9E : after { withRegs [(1, 5)] with keys := 0x0020 } 0xE19E (·.pc) = some 0x204 ∧
    after { withRegs [(1, 5)] with keys := 0xFFDF } 0xE19E (·.pc) = some 0x202 := by decide

/-- Vector KB5. -/
theorem test_Ex9E_fault : after { withRegs [(1, 16)] with keys := 0xFFFF } 0xE19E (·.fault) = some (some ⟨.keyIndexOutOfRange, 0x200, 16⟩) := by
  decide

/-- Vectors KB3, KB4. -/
theorem test_ExA1 : after { withRegs [(1, 5)] with keys := 0x0020 } 0xE1A1 (·.pc) = some 0x202 ∧
    after (withRegs [(1, 5)]) 0xE1A1 (·.pc) = some 0x204 := by decide

/-- Vector T1. -/
theorem test_Fx07 : after { State.reset with dt := 0x2A } 0xF107 (fun t => (t.reg 1, t.dt)) = some (0x2A, 0x2A) := by decide

/-- Vector KB7. -/
theorem test_Fx0A_hold : after (withRegs [(3, 9)]) 0xF30A (fun t => (t.run, t.pc, t.reg 3)) = some (.waitKey, 0x200, 9) := by decide

/-- Vector KB9. -/
theorem test_Fx0A_key : after { State.reset with keys := 0x8000 } 0xF30A (fun t => (t.reg 3, t.pc, t.run)) = some (0x0F, 0x202, .running) := by
  decide

/-- Vector T2. -/
theorem test_Fx15 : after (withRegs [(1, 0x3C)]) 0xF115 (fun t => (t.dt, t.events)) = some (60, []) := by decide

/-- Vectors T3, T4. -/
theorem test_Fx18 : after (withRegs [(1, 5)]) 0xF118 (fun t => (t.st, t.events, t.buzzer)) = some (5, [.buzzerStart], true) ∧
    after { withRegs [(1, 9)] with st := 5, buzzer := true } 0xF118 (fun t => (t.st, t.events, t.buzzer)) = some (9, [], true) := by decide

/-- Vectors T5, T6. -/
theorem test_Fx18_zero : after { State.reset with st := 5, buzzer := true } 0xF118 (fun t => (t.st, t.events, t.buzzer)) = some (0, [.buzzerStop], false) ∧
    after State.reset 0xF118 (fun t => (t.st, t.events)) = some (0, []) := by decide

/-- Vectors IM2, IM3. -/
theorem test_Fx1E : after { withRegs [(1, 1)] with i := 0x0FFF } 0xF11E (fun t => (t.i, t.reg VF)) = some (0x1000, 0) ∧
    after { withRegs [(1, 2)] with i := 0xFFFF } 0xF11E (·.i) = some 0x0001 := by decide

/-- Vectors IM4, IM5. -/
theorem test_Fx29 : after (withRegs [(1, 0x0A)]) 0xF129 (·.i) = some 0x032 ∧ after (withRegs [(1, 0xFF)]) 0xF129 (·.i) = some 0x4FB := by decide

/-- Vector S8 at the last legal address of IM8. -/
theorem test_Fx33 : after { withRegs [(1, 0x9C)] with i := 0xFFD } 0xF133 (fun t => (t.byteAt 0xFFD, t.byteAt 0xFFE, t.byteAt 0xFFF)) = some (1, 5, 6) := by
  decide

/-- Vector IM9. -/
theorem test_Fx33_fault : after { withRegs [(1, 7)] with i := 0xFFE } 0xF133 (fun t => (t.fault, t.byteAt 0xFFE)) =
    some (some ⟨.memoryBounds, 0x200, 0x1000⟩, 0) := by decide

/-- Vector IM10. -/
theorem test_Fx55 : after { withRegs [(0, 0x11), (1, 0x22), (2, 0x33), (3, 0x44)] with i := 0x400 } 0xF255
    (fun t => (t.byteAt 0x400, t.byteAt 0x401, t.byteAt 0x402, t.byteAt 0x403, t.i)) = some (0x11, 0x22, 0x33, 0, 0x400) := by decide

/-- Vector IM18: the instruction overwrites its own first byte. -/
theorem test_Fx55_self : after { withRegs [(0, 0x12)] with i := 0x200 } 0xF055 (fun t => (t.byteAt 0x200, t.byteAt 0x201, t.pc)) =
    some (0x12, 0x55, 0x202) := by decide

/-- Vector IM11. -/
theorem test_Fx65 : after ((withBytes 0x400 [0xAA, 0xBB, 0xCC, 0xDD]).setReg 3 0x99) 0xF265
    (fun t => (t.reg 0, t.reg 1, t.reg 2, t.reg 3, t.i)) = some (0xAA, 0xBB, 0xCC, 0x99, 0x400) := by decide

/-- Vector IM17. -/
theorem test_Fx65_fault : after { State.reset with i := 0xFFFF } 0xF065 (fun t => (t.fault, t.reg 0)) =
    some (some ⟨.memoryBounds, 0x200, 0xFFFF⟩, 0) := by decide

/-! ### The cycle, the agents, reset -/

/-- Vectors CY2, CY3, CY4, CY6. -/
theorem test_cycle_stops :
    turn { ready with pc := 0x201 } (·.fault) = some (some ⟨.misalignedFetch, 0x201, 0x201⟩) ∧
    turn { ready with pc := 0x1000 } (fun t => (t.run, t.pc)) = some (.haltedEnd, 0x1000) ∧
    turn { ready with pc := 0x1001 } (fun t => (t.run, t.fault)) = some (.haltedEnd, none) ∧
    turn { ready with cancel := true } (fun t => (t.run, t.pc)) = some (.cancelled, 0x200) := by decide

/-- Vector IL1. -/
theorem test_illegal : after State.reset 0x5121 (fun t => (t.run, t.fault)) = some (.faulted, some ⟨.illegalInstruction, 0x200, 0x5121⟩) := by
  decide

/-- Vector CY7, with `CANCEL` and `KEYS` set. -/
theorem test_terminal : turn ({ ready with cancel := true, keys := 0xFFFF }.raise .stackUnderflow 0) (fun t => (t.run, t.pc, t.fault)) =
    some (.faulted, 0x200, some ⟨.stackUnderflow, 0x200, 0⟩) := by decide

/-- Vectors T9, T10. -/
theorem test_tick_dt : turn { State.reset with dt := 1, agenda := [.tickDT] } (fun t => (t.dt, t.events)) = some (0, []) ∧
    turn { State.reset with agenda := [.tickDT] } (·.dt) = some 0 ∧
    turn { State.reset with dt := 3, st := 3, agenda := [.tickDT] } (fun t => (t.dt, t.st)) = some (2, 3) := by decide

/-- Vector T8, its last ticks. -/
theorem test_tick_st : turn { State.reset with st := 1, buzzer := true, agenda := [.tickST] } (fun t => (t.st, t.events, t.buzzer)) =
    some (0, [.buzzerStop], false) ∧ turn { State.reset with agenda := [.tickST] } (fun t => (t.st, t.events)) = some (0, []) := by decide

/-- A stopped core about to be given the ROM of P1. -/
def bootP1 : State :=
  { (withRegs [(1, 7)]).raise .stackUnderflow 0 with agenda := [.init Config.font (.bytes [0x00, 0xE0, 0x12, 0x00])] }

/-- `INIT` with the ROM of P1: its bytes verbatim (R262), the registers and RUN reset (R261). -/
theorem test_init_memory :
    turn bootP1 (fun t => [t.byteAt 0x200, t.byteAt 0x201, t.byteAt 0x202, t.byteAt 0x203]) = some [0x00, 0xE0, 0x12, 0x00] := by
  decide

theorem test_init_registers : turn bootP1 (fun t => (t.reg 1, t.run, t.fault)) = some (0, .running, none) := by decide

/-- The CPU's first turns from reset with nothing placed: 0x0000 at 0x200 jumps to 0x000, where the default font's word 0xF090 is unassigned (P6). -/
theorem test_reset_run : turn ready (fun t => (t.pc, t.run)) = some (0x000, .running) ∧
    turn { ready with pc := 0x000 } (·.fault) = some (some ⟨.illegalInstruction, 0x000, 0xF090⟩) := by decide

/-! ### Witnesses: for each statement with hypotheses, a state and operands that meet them, at the boundaries of their ranges -/

theorem witness_DecodeInvertsEncode : (Instr.sys 0x0EF).wf = true ∧ (Instr.drw 15 0 15).wf = true ∧ (Instr.shr 15 15).wf = true := by decide

theorem witness_EncodeInvertsDecode : decode [0x8F, 0xFE, 0x00] = .ok (.shl 15 15, [0x00]) := by rfl

theorem witness_DispatchFollowsOpcodeMap :
    ∃ r ∈ opcodeRows, ∃ q ∈ opcodeRows, r.fits 0x00EE = true ∧ q.fits 0x00EE = true ∧ r.number < q.number :=
  ⟨⟨2, 0xFFFF, 0x00EE⟩, by decide, ⟨3, 0xF000, 0x0000⟩, by decide, by decide⟩

/-- Each of the five sets of `UnassignedWordsExactly` at its ends, and the words beside them. -/
theorem witness_UnassignedWordsExactly :
    [0x5001, 0x5FFF, 0x9001, 0x9FFF, 0x8008, 0x8FFD, 0x8FFF, 0xE000, 0xEFFF, 0xF000, 0xFFFF].all (fun w => decodeWord w == none) = true ∧
    [0x5FF0, 0x9FF0, 0x8FF7, 0x8FFE, 0xEF9E, 0xEFA1, 0xFF07, 0xFF65].all (fun w => decodeWord w != none) = true := by decide

theorem witness_NibblesAndOperands : (Nibbles.ofBytes 0xD1 0x25).o1 = 0xD := by decide

/-- At the last word of memory, in both running states. -/
theorem witness_StepRunsTheDecodedInstruction :
    ∀ r, r = RunState.running ∨ r = RunState.waitKey →
      let s := wordAt { ready with pc := 0x0FFE, run := r } 0xFFE 0x60 0x00
      s.nextTurn = .cpu ∧ (s.run = .running ∨ s.run = .waitKey) ∧ s.cancel = false ∧ s.pc.toNat < 0x1000 ∧ s.pc.toNat % 2 = 0 ∧
      decode [s.byteAt s.pc.toNat, s.byteAt (s.pc.toNat + 1)] = .ok (.ldImm 0 0, []) := by
  rintro r (rfl | rfl) <;> exact ⟨rfl, by decide, rfl, by decide, by decide, rfl⟩

theorem witness_CycleStopsInOrder :
    (∀ r, r = RunState.haltedEnd ∨ r = RunState.cancelled ∨ r = RunState.faulted →
      ({ ready with run := r } : State).nextTurn = .cpu ∧
        (({ ready with run := r } : State).run = .haltedEnd ∨ ({ ready with run := r } : State).run = .cancelled ∨
          ({ ready with run := r } : State).run = .faulted)) ∧
    (let s : State := { ready with cancel := true }; s.nextTurn = .cpu ∧ s.run = .running ∧ s.cancel = true) ∧
    (let s : State := { ready with pc := 0x1000 };
      s.nextTurn = .cpu ∧ s.run = .running ∧ s.cancel = false ∧ 0x1000 ≤ s.pc.toNat) ∧
    (let s : State := { ready with pc := 0x0FFF };
      s.nextTurn = .cpu ∧ s.run = .running ∧ s.cancel = false ∧ s.pc.toNat < 0x1000 ∧ s.pc.toNat % 2 = 1) ∧
    (let s := wordAt { ready with pc := 0x0FFE, run := .waitKey } 0xFFE 0xF0 0x00;
      s.nextTurn = .cpu ∧ s.run = .waitKey ∧ s.cancel = false ∧ s.pc.toNat < 0x1000 ∧ s.pc.toNat % 2 = 0 ∧
      decode [s.byteAt s.pc.toNat, s.byteAt (s.pc.toNat + 1)] =
        .error (.illegal (s.byteAt s.pc.toNat ++ s.byteAt (s.pc.toNat + 1)))) :=
  ⟨fun _ h => ⟨rfl, h⟩, by decide, by decide, by decide, rfl, rfl, rfl, by decide, by decide, rfl⟩

/-- A terminal core, at a cycle and at a tick. -/
theorem witness_TerminalRunIsForever :
    (let s : State := { ready with run := .haltedEnd };
      s.run = .haltedEnd ∧ (∀ f src, s.nextTurn ≠ .init f src) ∧ ∃ t, step s = .next t) ∧
    (let s : State := { State.reset with run := .faulted, agenda := [.tickST] };
      s.run = .faulted ∧ (∀ f src, s.nextTurn ≠ .init f src) ∧ ∃ t, step s = .next t) :=
  ⟨⟨rfl, (fun _ _ h => by cases h), _, rfl⟩, rfl, (fun _ _ h => by cases h), _, rfl⟩

/-- At the values 0 and 1. -/
theorem witness_TicksCountDown :
    ({ State.reset with agenda := [.tickDT], dt := 1 } : State).nextTurn = .tickDT ∧
    ({ State.reset with agenda := [.tickDT], dt := 0 } : State).nextTurn = .tickDT ∧
    ({ State.reset with agenda := [.tickST], st := 1 } : State).nextTurn = .tickST ∧
    ({ State.reset with agenda := [.tickST], st := 0 } : State).nextTurn = .tickST := by decide

/-- Both clauses: two ticks from ST = 2, and a state from which every run goes on. A terminal core with no `INIT` in its agenda is one,
since no round holds an `INIT`. -/
theorem witness_SoundTimerRunsDown :
    ({ State.reset with agenda := [.tickST, .tickST, .cpu], st := 2, buzzer := true } : State).agenda =
      List.replicate 2 .tickST ++ [.cpu] ∧
    ∀ k, ∃ t, Sys2Proof.core.run k { State.reset with run := .haltedEnd } = .next t := by
  refine ⟨by decide, fun k => ?_⟩
  have go (k : Nat) (s : State) (hr : s.run = .haltedEnd) (ha : ∀ a ∈ s.agenda, a.isInit = false) :
      ∃ t, Sys2Proof.core.run k s = .next t := by
    induction k generalizing s with
    | zero => exact ⟨s, rfl⟩
    | succ k ih =>
      have hp (a : Turn) (h : a ∈ s.plan) : a.isInit = false := by
        cases hs : s.agenda with
        | nil => rw [plan_nil hs] at h; exact isInit_of_mem_fairRound h
        | cons b bs => rw [plan_cons hs, ← hs] at h; exact ha a h
      have hn : s.nextTurn.isInit = false := hp _ (by rw [plan_eq s]; simp)
      have ht (a : Turn) (h : a ∈ s.plan.tail) : a.isInit = false := hp a (List.mem_of_mem_tail h)
      have hc : cycle s.turnTaken = .next s.turnTaken := by simp [cycle, hr, RunState.terminal]
      have hs : ∃ t, step s = .next t ∧ t.run = .haltedEnd ∧ t.agenda = s.plan.tail := by
        cases h : s.nextTurn <;> rw [step_eq, h]
        case init f rom => rw [h] at hn; cases hn
        case cpu => exact ⟨_, hc, hr, rfl⟩
        all_goals exact ⟨_, rfl, hr, rfl⟩
      obtain ⟨t, h1, h2, h3⟩ := hs
      obtain ⟨u, hu⟩ := ih t h2 (h3 ▸ ht)
      exact ⟨u, by rw [run_succ h1, hu]⟩
  exact go k _ rfl (by simp [State.reset])

theorem witness_InputsReachOnlyTheirLines :
    ({ State.reset with agenda := [.tickST] } : State).agenda = .tickST :: [] ∧ State.reset.agenda = [] ∧
    ({ State.reset with agenda := [.keys 0x8000] } : State).nextTurn = .keys 0x8000 ∧
    ({ State.reset with agenda := [.rnd 0xFF] } : State).nextTurn = .rnd 0xFF ∧
    ({ State.reset with agenda := [.cancel] } : State).nextTurn = .cancel ∧
    (let s : State := { State.reset with agenda := [.reply true], display := .external [] };
      s.nextTurn = .reply true ∧ s.display = .external []) ∧
    (let s : State := { State.reset with agenda := [.reply true] };
      s.nextTurn = .reply true ∧ ∀ cs, s.display ≠ .external cs) :=
  ⟨rfl, rfl, by decide, by decide, by decide, by decide, rfl, fun _ h => by cases h⟩

/-- The first and last of each range: registers of the stack, glyph bytes, the first zero byte. -/
theorem witness_ResetValues : State.reset.stack[15] = 0 ∧ State.reset.byteAt 0 = Config.font[0][0] ∧
    State.reset.byteAt (5 * 15 + 4) = Config.font[15][4] ∧ State.reset.byteAt 0x050 = 0 := by decide

/-- The empty ROM and the longest one. -/
theorem witness_InitLoadsFontAndRom :
    ∀ n, n = 0 ∨ n = 3584 →
      ({ State.reset with agenda := [.init Config.font (.bytes (List.replicate n 0xAA))] } : State).nextTurn =
        .init Config.font (.bytes (List.replicate n 0xAA)) ∧ (List.replicate n (0xAA : Byte)).length ≤ 3584 := by
  rintro n (rfl | rfl) <;> exact ⟨rfl, List.length_replicate.trans_le (by decide)⟩

/-- From a faulted state, with the reference Display. -/
theorem witness_InitResetsEverything :
    let s : State := { State.reset.raise .stackUnderflow 0 with agenda := [.init Config.font (.bytes [0x12, 0x00])] }
    s.nextTurn = .init Config.font (.bytes [0x12, 0x00]) ∧ s.run = .faulted ∧ s.display = .reference Grid.blank := by
  exact ⟨rfl, rfl, rfl⟩

theorem witness_InitRefusesBadRoms :
    ({ State.reset with agenda := [.init Config.font (.bytes (List.replicate 3585 0))] } : State).nextTurn =
      .init Config.font (.bytes (List.replicate 3585 0)) ∧ 3584 < (List.replicate 3585 (0 : Byte)).length ∧
    ({ State.reset with agenda := [.init Config.font .readFailure] } : State).nextTurn = .init Config.font .readFailure :=
  ⟨rfl, by rw [List.length_replicate]; decide, rfl⟩

/-- Each condition at the value where it begins. -/
theorem witness_InstructionFaultsArePrecise :
    State.reset.sp.toNat = 0 ∧ ({ State.reset with sp := 16 } : State).sp.toNat = 16 ∧
    (0 < (1 : Nibble).toNat ∧ 0xFFF < ({ State.reset with i := 0x1000 } : State).i.toNat + (1 : Nibble).toNat - 1) ∧
    (0 < (15 : Nibble).toNat ∧ 0xFFF < ({ State.reset with i := 0x0FF2 } : State).i.toNat + (15 : Nibble).toNat - 1) ∧
    0xFFF < ({ State.reset with i := 0x0FFE } : State).i.toNat + 2 ∧
    0xFFF < ({ State.reset with i := 0x0FF1 } : State).i.toNat + (15 : Reg).val ∧
    0xFFF < ({ State.reset with i := 0x1000 } : State).i.toNat + (0 : Reg).val ∧
    15 < ((withRegs [(1, 16)]).reg 1).toNat := by decide

theorem witness_MissingStackEntryStops : 16 < ({ State.reset with sp := 17 } : State).sp.toNat := by decide

theorem witness_EveryInstructionAnswersNext : State.reset.sp.toNat ≤ 16 ∧ ({ State.reset with sp := 16 } : State).sp.toNat ≤ 16 := by decide

theorem witness_JumpsGoToTheirAddress : (0x0EF : Addr) ≠ 0x0E0 ∧ (0x0EF : Addr) ≠ 0x0EE := by decide

/-- With the first and the last entry free. -/
theorem witness_CallPushesReturnAddress :
    State.reset.sp.toNat < 16 ∧ ({ State.reset with sp := 15 } : State).sp.toNat < 16 := by decide

/-- With one live entry and with sixteen. -/
theorem witness_ReturnPopsTheTop :
    (0 < ({ State.reset with sp := 1 } : State).sp.toNat ∧ ({ State.reset with sp := 1 } : State).sp.toNat ≤ 16) ∧
    (0 < ({ State.reset with sp := 16 } : State).sp.toNat ∧ ({ State.reset with sp := 16 } : State).sp.toNat ≤ 16) := by decide

/-- The first clause at SP = 15, with what ran in between gone into V1 and PC; the second with sixteen calls from an empty stack. -/
theorem witness_CallsAndReturnsRoundTrip :
    (let s : State := { State.reset with sp := 15 };
      s.sp.toNat < 16 ∧ ∃ t, exec (.call 0x300) s = .next t ∧ (t.setReg 1 7).sp = t.sp ∧ (t.setReg 1 7).stack = t.stack) ∧
    State.reset.sp.toNat + (List.replicate 16 (0x300 : Addr)).length ≤ 16 ∧ List.replicate 16 (0x300 : Addr) ≠ [] :=
  ⟨⟨by decide, _, rfl, rfl, rfl⟩, by decide, by decide⟩

theorem witness_RegisterSkips : (1 : Nibble) ≠ 0 ∧ (15 : Nibble) ≠ 0 := by decide

theorem witness_AddRegistersWithCarry : (0 : Reg) ≠ VF := by decide

theorem witness_SubtractionsWithGreaterFlag : (0 : Reg) ≠ VF ∧ (14 : Reg) ≠ VF := by decide

theorem witness_SubtractionsNamingVF : (14 : Reg) ≠ VF := by decide

theorem witness_ShiftsOutToVF : (14 : Reg) ≠ VF := by decide

/-- The last address at which three bytes fit. -/
theorem witness_StoreDecimalDigits : ({ State.reset with i := 0xFFD } : State).i.toNat + 2 ≤ 0xFFF := by decide

/-- The last addresses at which one register and sixteen fit. -/
theorem witness_StoreRegisterRange :
    ({ State.reset with i := 0xFFF } : State).i.toNat + (0 : Reg).val ≤ 0xFFF ∧
    ({ State.reset with i := 0xFF0 } : State).i.toNat + (15 : Reg).val ≤ 0xFFF := by decide

theorem witness_LoadRegisterRange :
    ({ State.reset with i := 0xFFF } : State).i.toNat + (0 : Reg).val ≤ 0xFFF ∧
    ({ State.reset with i := 0xFF0 } : State).i.toNat + (15 : Reg).val ≤ 0xFFF := by decide

theorem witness_StoreThenLoadRestores :
    let s : State := { State.reset with i := 0xFF0 }
    s.i.toNat + (15 : Reg).val ≤ 0xFFF ∧
      ∃ t, exec (.ldMemVx 15) s = .next t ∧ (t.setReg 1 7).i = s.i ∧ (t.setReg 1 7).mem = t.mem :=
  ⟨by decide, _, rfl, rfl, rfl⟩

/-- 0x1234 stored at 0x300 and fetched there. -/
theorem witness_StoredBytesAreFetched :
    let s : State := { withRegs [(0, 0x12), (1, 0x34)] with i := 0x300 }
    s.i.toNat + (1 : Reg).val ≤ 0xFFF ∧
      ∃ t, exec (.ldMemVx 1) s = .next t ∧
        (let u : State := { t.jump 0x300 with agenda := [.cpu] };
          u.mem = t.mem ∧ (1 : Reg).val = (0 : Reg).val + 1 ∧ (1 : Reg) ≤ 1 ∧ u.pc.toNat = s.ea (0 : Reg) ∧
          decode [s.reg 0, s.reg 1] = .ok (.jp 0x234, []) ∧ u.nextTurn = .cpu ∧ u.run = .running ∧ u.cancel = false ∧
          u.pc.toNat % 2 = 0) :=
  ⟨by decide, _, rfl, rfl, rfl, by decide, by decide, rfl, rfl, rfl, rfl, by decide⟩

theorem witness_ClearScreen :
    State.reset.display = .reference Grid.blank ∧ ∀ g, ({ State.reset with display := .null } : State).display ≠ .reference g :=
  ⟨rfl, fun _ h => by cases h⟩

/-- n = 0 with I outside memory, n = 1 at the last byte, n = 15 at the last place it fits; every kind of Display. -/
theorem witness_DrawReportsCollision :
    ((0 : Nibble).toNat = 0 ∨ ({ State.reset with i := 0xFFFF } : State).i.toNat + (0 : Nibble).toNat - 1 ≤ 0xFFF) ∧
    ((1 : Nibble).toNat = 0 ∨ ({ State.reset with i := 0xFFF } : State).i.toNat + (1 : Nibble).toNat - 1 ≤ 0xFFF) ∧
    ((15 : Nibble).toNat = 0 ∨ ({ State.reset with i := 0xFF1 } : State).i.toNat + (15 : Nibble).toNat - 1 ≤ 0xFFF) ∧
    ({ State.reset with display := .null } : State).display = .null ∧
    ({ State.reset with display := .external [true] } : State).display = .external [true] ∧ 0 < (1 : Nibble).toNat := by decide

/-- The last bit of the last row of a sprite of the longest size a Dxyn has, wrapping in both directions; and a pixel no bit meets. -/
theorem witness_SpritePixelsXor :
    (List.replicate 15 (0xFF : Byte)).length ≤ 32 ∧ 14 < (List.replicate 15 (0xFF : Byte)).length ∧ 7 < 8 ∧
    (13 : Fin 32).val = ((31 : Byte).toNat + 14) % 32 ∧ (5 : Fin 64).val = ((62 : Byte).toNat + 7) % 64 ∧
    (∀ r c, r < (List.replicate 15 (0xFF : Byte)).length → c < 8 →
      ¬ ((20 : Fin 32).val = ((31 : Byte).toNat + r) % 32 ∧ (5 : Fin 64).val = ((62 : Byte).toNat + c) % 64)) := by
  refine ⟨by decide, by decide, by decide, by decide, by decide, fun r c hr _ h => ?_⟩
  simp at hr h
  omega

theorem witness_CollisionExactlyWhereLit :
    ([0x80] : List Byte).length ≤ 32 ∧ (Grid.draw (Grid.blank.setPixel 0 0 true) 0 0 [0x80]).2 = true ∧
    (Grid.draw Grid.blank 0 0 [0x80]).2 = false := by decide

theorem witness_DrawingTwiceRestores : ([0xF0, 0x90] : List Byte).length ≤ 32 := by decide

theorem witness_RandomByteMasked :
    ({ State.reset with rndIn := [0xA7] } : State).rndIn = 0xA7 :: [] ∧ State.reset.rndIn = [] := by decide

theorem witness_KeySkips : ((withRegs [(1, 15)]).reg 1).toNat ≤ 15 ∧ (State.reset.reg 1).toNat ≤ 15 := by decide

theorem witness_WaitForKey : State.reset.keys = 0 ∧ ({ State.reset with keys := 0x0120 } : State).keys ≠ 0 := by decide

/-- Up from 0, down to 0, and neither. -/
theorem witness_SoundTimerSet :
    (State.reset.st.toNat = 0 ∧ 0 < ((withRegs [(1, 1)]).reg 1).toNat) ∧
    (0 < ({ State.reset with st := 1 } : State).st.toNat ∧ (({ State.reset with st := 1 } : State).reg 1).toNat = 0) ∧
    (State.reset.st.toNat = 0 ↔ (State.reset.reg 1).toNat = 0) ∧
    (({ withRegs [(1, 1)] with st := 1 } : State).st.toNat = 0 ↔ (({ withRegs [(1, 1)] with st := 1 } : State).reg 1).toNat = 0) := by decide

/-- A next state, for an instruction that meets the premise of each clause. -/
theorem witness_WritersOfEachState :
    (∃ t, exec (.ldImm 0 1) State.reset = .next t) ∧
    (∀ x, Instr.ldImm 0 1 ≠ .ldBVx x ∧ Instr.ldImm 0 1 ≠ .ldMemVx x) ∧ (∀ n, Instr.ldImm 0 1 ≠ .ldI n) ∧
    (∀ x, Instr.ldImm 0 1 ≠ .addIVx x ∧ Instr.ldImm 0 1 ≠ .ldFVx x) ∧ Instr.ldImm 0 1 ≠ .ret ∧ (∀ n, Instr.ldImm 0 1 ≠ .call n) ∧
    (∀ x, Instr.ldImm 0 1 ≠ .ldDTVx x) ∧ (∀ x, Instr.ldImm 0 1 ≠ .ldSTVx x) ∧ Instr.ldImm 0 1 ≠ .cls ∧
    (∀ x y n, Instr.ldImm 0 1 ≠ .drw x y n) ∧ (∀ x kk, Instr.ldImm 0 1 ≠ .rnd x kk) := by
  refine ⟨⟨_, rfl⟩, ?_⟩
  simp

/-- Both clauses: 8xy4 with x other than F completes and writes the flag; V3 is neither its destination nor VF. -/
theorem witness_WritersOfRegisters :
    (∃ t, exec (.addReg 1 2) State.reset = .next t ∧ t.run ≠ .faulted) ∧
    namesDest (.addReg 1 2) 3 = false ∧ (3 : Reg) ≠ VF ∧ writesFlag (.addReg 1 2) = true ∧ namesDest (.addReg 1 2) VF = false :=
  ⟨⟨_, rfl, by decide⟩, by decide, by decide, rfl, by decide⟩

/-- Two states that differ in ST and the Buzzer. -/
theorem witness_SoundTimerInvisibleToCore :
    Agree [.soundTimer, .buzzer, .events] State.reset { State.reset with st := 5, buzzer := true, events := [.buzzerStart] } ∧
    ∃ t, exec (.ldSTVx 1) State.reset = .next t := by
  refine ⟨⟨rfl, fun _ _ => rfl, fun _ _ => rfl, fun p hp => ?_⟩, _, rfl⟩
  cases p <;> first | rfl | exact ⟨rfl, rfl⟩ | exact absurd hp (by decide)

/-- Two states that differ in a pixel. -/
theorem witness_DisplayInvisibleButForCollision :
    (∀ x y n, Instr.cls ≠ .drw x y n) ∧
    Agree [.display, .events] State.reset { State.reset with display := .reference (Grid.blank.setPixel 0 0 true) } ∧
    ∃ t, exec .cls State.reset = .next t := by
  refine ⟨by simp, ⟨rfl, fun _ _ => rfl, fun _ _ => rfl, fun p hp => ?_⟩, _, rfl⟩
  cases p <;> first | rfl | exact ⟨rfl, rfl⟩ | exact absurd hp (by decide)

theorem witness_TicksCommute :
    (∀ x, Instr.ldSTVx 1 ≠ .ldVxDT x ∧ Instr.ldSTVx 1 ≠ .ldDTVx x) ∧ ∃ t, exec (.ldSTVx 1) { State.reset with dt := 1 } = .next t :=
  ⟨by simp, _, rfl⟩

/-- A state with a byte listed, about to store another. -/
theorem witness_StepKeepsMemoryCanonical :
    let s := State.reset.withFetchWord 16 0xF055
    MemoryInv s ∧ ∃ t, step s = .next t :=
  ⟨by show Memory.wf _; decide, _, rfl⟩

/-- A full stack whose entries are live, about to overflow; and the largest PC. -/
theorem witness_StepKeepsControlState :
    (let s := ({ State.reset with sp := 16 } : State).withFetchWord 16 0x2300;
      ControlInv s ∧ ∃ t, step s = .next t) ∧
    (let s : State := { ready with pc := 0x10FE };
      ControlInv s ∧ ∃ t, step s = .next t) :=
  ⟨⟨⟨by decide, by decide, by decide⟩, _, rfl⟩, ⟨by decide, by decide, by decide⟩, _, rfl⟩

/-- A beep about to end. -/
theorem witness_StepKeepsBuzzerAlternation :
    let s : State := { State.reset with st := 1, buzzer := true, events := [.buzzerStart], agenda := [.tickST] }
    BuzzerInv s ∧ ∃ t, step s = .next t :=
  ⟨⟨by decide, by decide⟩, _, rfl⟩

/-- A core that waits for a key. -/
theorem witness_StepKeepsRunState :
    let s := ({ State.reset with run := .waitKey } : State).withFetchWord 16 0xF30A
    FaultInv s ∧ WaitKeyInv s ∧ ∃ t, step s = .next t :=
  ⟨⟨by decide, fun _ h => by cases h⟩, fun _ => ⟨by decide, by decide, 3, rfl⟩, _, rfl⟩

/-- Before a cycle, and before a boot with the longest ROM. -/
theorem witness_StepNeverStops :
    (ControlInv ready ∧ BootOk ready) ∧
    BootOk { State.reset with agenda := [.init Config.font (.bytes (List.replicate 3584 0))] } := by
  refine ⟨⟨⟨by decide, by decide, by decide⟩, fun _ _ h => by cases h⟩, fun f src h => ?_⟩
  cases h
  exact ⟨_, rfl, by rw [List.length_replicate]⟩

theorem witness_InvariantsHoldAfterInit :
    let s : State := { State.reset.raise .stackUnderflow 0 with agenda := [.init Config.font (.bytes [0x12, 0x00])] }
    s.nextTurn = .init Config.font (.bytes [0x12, 0x00]) ∧ ∃ t, step s = .next t :=
  ⟨rfl, _, rfl⟩

end Sys2Proof.Tests
end

section
/-! PROOFS. What an instruction does to PC, the call stack, RUN and the fault record, said once; from it, that the control state and the
run state keep their invariants over every step (O55, O57), and that no step stops the model (O19, O58, O18). -/

namespace Sys2Proof.Machine

/-! ### Every instruction answers (R210, R211) -/

/-- A checked access always answers a next state. -/
theorem checkRange_answers (s : State) (len : Nat) (e : State) : ∃ t, s.checkRange len e = .next t := by
  simp only [checkRange_cases]
  cases s.rangeOk len
  · exact ⟨_, .inr ⟨rfl, rfl⟩⟩
  · exact ⟨_, .inl ⟨rfl, rfl⟩⟩

/-- A key instruction always answers a next state. -/
theorem checkKey_answers (s : State) (x : Reg) (e : State) : ∃ t, s.checkKey x e = .next t := by
  simp only [checkKey_cases]
  rcases Nat.lt_or_ge 15 (s.reg x).toNat with h | h
  · exact ⟨_, .inr ⟨h, rfl⟩⟩
  · exact ⟨_, .inl ⟨h, rfl⟩⟩

/-- Fx0A holds, or takes one of the pressed keys. -/
theorem execLdVxK_cases (x : Reg) (s : State) :
    (s.keys = 0 ∧ execLdVxK x s = .next (s.setRun .waitKey)) ∨
    (s.keys ≠ 0 ∧ execLdVxK x s =
      .next (((s.consumeChoice s.pressedKeys).setReg x (BitVec.ofNat 8 (s.chosenKey s.pressedKeys))).setRun .running).advance) := by
  unfold execLdVxK
  by_cases h : s.keys = 0
  · exact .inl ⟨h, if_pos h⟩
  · exact .inr ⟨h, if_neg h⟩

/-- What 00EE can answer. -/
theorem exec_ret_next {s t : State} (h : exec .ret s = .next t) :
    t = s.raise .stackUnderflow (zext16 s.sp) ∨
    ∃ hlt : s.sp.toNat - 1 < 16, s.sp ≠ 0 ∧ t = (s.jump s.stack[s.sp.toNat - 1]).pop := by
  change execRet s = _ at h
  rcases execRet_cases s with ⟨_, hr⟩ | ⟨hlt, hpos, hr⟩ | ⟨_, hr⟩ <;> cases hr.symm.trans h
  · exact .inl rfl
  · exact .inr ⟨hlt, hpos, rfl⟩

/-- What 2nnn can answer. -/
theorem exec_call_next {nnn : Addr} {s t : State} (h : exec (.call nnn) s = .next t) :
    t = s.raise .stackOverflow (zext16 s.sp) ∨
    ∃ hlt : s.sp.toNat < 16, t = (s.push (s.pc + 2) hlt).jump (addrOperand nnn) := by
  change execCall nnn s = _ at h
  rcases execCall_cases nnn s with ⟨_, hr⟩ | ⟨hlt, hr⟩ | ⟨_, hr⟩ <;> cases hr.symm.trans h
  · exact .inl rfl
  · exact .inr ⟨hlt, rfl⟩

/-- What Fx0A can answer. -/
theorem exec_ldVxK_next {x : Reg} {s t : State} (h : exec (.ldVxK x) s = .next t) :
    t = s.setRun .waitKey ∨
    t = (((s.consumeChoice s.pressedKeys).setReg x (BitVec.ofNat 8 (s.chosenKey s.pressedKeys))).setRun .running).advance := by
  change execLdVxK x s = _ at h
  rcases execLdVxK_cases x s with ⟨_, hr⟩ | ⟨_, hr⟩ <;> cases hr.symm.trans h
  · exact .inl rfl
  · exact .inr rfl

/-- With SP at most 16 every instruction answers a next state. -/
theorem exec_answers (i : Instr) {s : State} (hsp : s.sp.toNat ≤ 16) : ∃ t, exec i s = .next t := by
  cases i with
  | ret =>
    rcases execRet_cases s with ⟨_, h⟩ | ⟨_, _, h⟩ | ⟨h, _⟩
    · exact ⟨_, h⟩
    · exact ⟨_, h⟩
    · omega
  | call nnn =>
    rcases execCall_cases nnn s with ⟨_, h⟩ | ⟨_, h⟩ | ⟨h, _⟩
    · exact ⟨_, h⟩
    · exact ⟨_, h⟩
    · omega
  | ldVxK x =>
    rcases execLdVxK_cases x s with ⟨_, h⟩ | ⟨_, h⟩
    · exact ⟨_, h⟩
    · exact ⟨_, h⟩
  | skp | sknp => exact checkKey_answers ..
  | drw | ldBVx | ldMemVx | ldVxMem => exact checkRange_answers ..
  | cls | sys | jp | seImm | sneImm | seReg | ldImm | addImm | ldReg | orReg | andReg | xorReg | addReg | sub | shr | subn | shl
  | sneReg | ldI | jpV0 | rnd | ldVxDT | ldDTVx | ldSTVx | addIVx | ldFVx => exact ⟨_, rfl⟩

/-- Settles O19: only 2nnn and 00EE can stop, and only with SP above 16. -/
theorem everyInstructionAnswersNext : Obligations.EveryInstructionAnswersNext :=
  fun i _ hsp => exec_answers i hsp

/-- Settles O18, from the cases of 00EE and 2nnn. -/
theorem missingStackEntryStops : Obligations.MissingStackEntryStops := by
  intro s hsp
  constructor
  · rcases execRet_cases s with ⟨h0, _⟩ | ⟨h, _, _⟩ | ⟨_, h⟩
    · simp [h0] at hsp
    · omega
    · exact h
  · intro nnn
    rcases execCall_cases nnn s with ⟨h, _⟩ | ⟨h, _⟩ | ⟨_, h⟩
    · omega
    · omega
    · exact h

/-! ### What the other agents leave to the core -/

/-- The state that only the core writes: all but the timers, the outputs, the inputs and the schedule. -/
structure SameCore (s t : State) : Prop where
  v : t.v = s.v
  pc : t.pc = s.pc
  i : t.i = s.i
  sp : t.sp = s.sp
  stack : t.stack = s.stack
  mem : t.mem = s.mem
  run : t.run = s.run
  fault : t.fault = s.fault

/-- A step is a cycle, a tick or an input that leaves the core as it was (R111, R236), or a boot. -/
theorem step_core_cases {s t : State} (h : step s = .next t) :
    cycle s.turnTaken = .next t ∨ SameCore s t ∨ ∃ f rom, rom.length ≤ 3584 ∧ t = s.turnTaken.boot f rom := by
  rcases step_cases h with ⟨_, hc⟩ | ⟨_, rfl⟩ | ⟨_, rfl⟩ | ⟨_, _, rfl⟩ | ⟨_, _, rfl⟩ | ⟨_, _, rfl⟩ | ⟨_, rfl⟩ |
    ⟨f, rom, _, hlen, rfl⟩
  on_goal 1 => exact .inl hc
  on_goal 7 => exact .inr (.inr ⟨f, rom, hlen, rfl⟩)
  all_goals exact .inr (.inl ⟨rfl, rfl, rfl, rfl, rfl, rfl, rfl, rfl⟩)

/-! ### What an instruction does to the control state -/

/-- What instruction `i`, executed in `s`, did to PC, the call stack, RUN and the fault record in answering `t`. -/
inductive ControlEffect (i : Instr) (s t : State) : Prop
  /-- It took a fault (R211). -/
  | raised (code : FaultCode) (info : Word) (ht : t = s.raise code info)
  /-- Fx0A found no key pressed (R193). -/
  | held (x : Reg) (hi : i = .ldVxK x) (ht : t = s.setRun .waitKey)
  /-- 00EE popped a live entry (R130). -/
  | returned (hi : i = .ret) (hlt : s.sp.toNat - 1 < 16) (hpos : s.sp ≠ 0) (ht : t = (s.jump s.stack[s.sp.toNat - 1]).pop)
  /-- 2nnn pushed the address after it (R133). -/
  | called (nnn : Addr) (hi : i = .call nnn) (hlt : s.sp.toNat < 16) (ht : t = (s.push (s.pc + 2) hlt).jump (addrOperand nnn))
  /-- A jump, to at most 0xFFF + 0xFF (R131, R132, R134). -/
  | jumped (target : Word) (hi : ∀ x, i ≠ .ldVxK x) (htarget : target.toNat ≤ 0x10FE) (ht : t = s.jump target)
  /-- It advanced, a skip by four (R113, R144); only Fx0A writes RUN. -/
  | advanced (hpc : t.pc = s.pc + 2 ∨ t.pc = s.pc + 2 + 2) (hsp : t.sp = s.sp) (hstack : t.stack = s.stack)
      (hfault : t.fault = s.fault) (hrun : t.run = .running ∨ (∀ x, i ≠ .ldVxK x) ∧ t.run = s.run)

theorem toNat_addrOperand_le (nnn : Addr) : (addrOperand nnn).toNat ≤ 0xFFF := by
  have := nnn.isLt
  rw [toNat_addrOperand]
  omega

/-- Bnnn goes no further than 0xFFF + 0xFF: the sum does not wrap (R25, R134). -/
theorem toNat_jpV0_target_le (nnn : Addr) (b : Byte) : (addrOperand nnn + zext16 b).toNat ≤ 0x10FE := by
  have := toNat_addrOperand_le nnn
  have := b.isLt
  rw [BitVec.toNat_add, toNat_zext16]
  omega

theorem skipIf_pc_cases (s : State) (c : Bool) : (s.skipIf c).pc = s.pc + 2 ∨ (s.skipIf c).pc = s.pc + 2 + 2 := by
  cases c
  · exact .inl rfl
  · exact .inr rfl

/-- An instruction that ends with the automatic advance after writing none of the control state. -/
theorem controlEffect_advance {i : Instr} {s e : State} (hi : ∀ x, i ≠ .ldVxK x)
    (he : e.pc = s.pc ∧ e.sp = s.sp ∧ e.stack = s.stack ∧ e.fault = s.fault ∧ e.run = s.run) : ControlEffect i s e.advance := by
  obtain ⟨hpc, hsp, hstack, hfault, hrun⟩ := he
  exact .advanced (.inl (by rw [advance_pc, hpc])) hsp hstack hfault (.inr ⟨hi, hrun⟩)

/-- The inversion of `exec` for the control state. -/
theorem exec_controlEffect {i : Instr} {s t : State} (h : exec i s = .next t) : ControlEffect i s t := by
  cases i with
  | ret =>
    obtain rfl | ⟨hlt, hpos, rfl⟩ := exec_ret_next h
    · exact .raised _ _ rfl
    · exact .returned rfl hlt hpos rfl
  | call nnn =>
    obtain rfl | ⟨hlt, rfl⟩ := exec_call_next h
    · exact .raised _ _ rfl
    · exact .called nnn rfl hlt rfl
  | sys nnn | jp nnn =>
    cases h
    exact .jumped _ nofun (Nat.le_trans (toNat_addrOperand_le nnn) (by decide)) rfl
  | jpV0 nnn =>
    cases h
    exact .jumped _ nofun (toNat_jpV0_target_le nnn _) rfl
  | ldVxK x =>
    obtain rfl | rfl := exec_ldVxK_next h
    · exact .held x rfl rfl
    · exact .advanced (.inl rfl) rfl rfl rfl (.inl rfl)
  | skp | sknp =>
    obtain ⟨_, rfl⟩ | ⟨_, rfl⟩ := (checkKey_cases ..).1 h
    · exact .advanced (skipIf_pc_cases ..) rfl rfl rfl (.inr ⟨nofun, rfl⟩)
    · exact .raised _ _ rfl
  | drw | ldBVx | ldMemVx | ldVxMem =>
    obtain ⟨_, rfl⟩ | ⟨_, rfl⟩ := (checkRange_cases ..).1 h
    · exact controlEffect_advance nofun (by simp)
    · exact .raised _ _ rfl
  | seImm | sneImm | seReg | sneReg =>
    cases h
    exact .advanced (skipIf_pc_cases ..) rfl rfl rfl (.inr ⟨nofun, rfl⟩)
  | cls | ldImm | addImm | ldReg | orReg | andReg | xorReg | addReg | sub | shr | subn | shl | ldI | rnd | ldVxDT | ldDTVx | ldSTVx
  | addIVx | ldFVx =>
    cases h
    exact controlEffect_advance nofun (by simp)

/-! ### The control invariant (R25, R27, R28) -/

/-- The invariant speaks of PC, SP and the stack alone. -/
theorem controlInv_of_same {s t : State} (hs : ControlInv s) (hpc : t.pc = s.pc) (hsp : t.sp = s.sp) (hstack : t.stack = s.stack) :
    ControlInv t := by
  unfold ControlInv
  rw [hpc, hsp, hstack]
  exact hs

/-- Popping a live entry goes where that entry says, and leaves one entry less. -/
theorem controlInv_pop {s : State} (hs : ControlInv s) (hlt : s.sp.toNat - 1 < 16) (hpos : s.sp ≠ 0) :
    ControlInv (s.jump s.stack[s.sp.toNat - 1]).pop := by
  obtain ⟨hsp, hlive, -⟩ := hs
  have hne : s.sp.toNat ≠ 0 := fun h => hpos (BitVec.eq_of_toNat_eq h)
  have hpop : (s.sp - 1).toNat = s.sp.toNat - 1 := by
    bv_omega
  have htop := hlive (s.sp.toNat - 1) hlt (by omega)
  refine ⟨?_, fun k hk hklt => hlive k hk ?_, ?_⟩
  · simp only [pop_sp, jump_sp, hpop]
    omega
  · simp only [pop_sp, jump_sp, hpop] at hklt
    omega
  · simp only [pop_pc, jump_pc]
    omega

/-- Pushing the address after an instruction fetched from memory, and jumping within the bound. -/
theorem controlInv_push {s : State} (hs : ControlInv s) (hlt : s.sp.toNat < 16) (hpc : s.pc.toNat < 0x1000)
    (heven : s.pc.toNat % 2 = 0) {target : Word} (htarget : target.toNat ≤ 0x10FE) :
    ControlInv ((s.push (s.pc + 2) hlt).jump target) := by
  obtain ⟨-, hlive, -⟩ := hs
  have hpush : (s.sp + 1).toNat = s.sp.toNat + 1 := by
    bv_omega
  have hnext : (s.pc + 2).toNat = s.pc.toNat + 2 := by
    bv_omega
  refine ⟨?_, fun k hk hklt => ?_, htarget⟩
  · simp only [jump_sp, push_sp, hpush]
    omega
  · simp only [jump_sp, push_sp, hpush] at hklt
    simp only [jump_stack, push_stack, Vector.getElem_set]
    split_ifs with hnew
    · omega
    · exact hlive k hk (by omega)

/-- From an even address of memory every instruction keeps the control invariant. -/
theorem exec_keeps_controlInv {i : Instr} {s t : State} (hs : ControlInv s) (hpc : s.pc.toNat < 0x1000) (heven : s.pc.toNat % 2 = 0)
    (h : exec i s = .next t) : ControlInv t := by
  cases exec_controlEffect h with
  | raised _ _ ht | held _ _ ht =>
    subst ht
    exact controlInv_of_same hs rfl rfl rfl
  | returned _ hlt hpos ht =>
    subst ht
    exact controlInv_pop hs hlt hpos
  | called nnn _ hlt ht =>
    subst ht
    exact controlInv_push hs hlt hpc heven (Nat.le_trans (toNat_addrOperand_le nnn) (by decide))
  | jumped _ _ htarget ht =>
    obtain ⟨hsp, hlive, -⟩ := hs
    subst ht
    exact ⟨hsp, hlive, htarget⟩
  | advanced hpc' hsp' hstack' =>
    obtain ⟨hsp, hlive, -⟩ := hs
    have hbound : t.pc.toNat ≤ 0x10FE := by
      rcases hpc' with hpc' | hpc' <;> rw [hpc'] <;> bv_omega
    unfold ControlInv
    rw [hsp', hstack']
    exact ⟨hsp, hlive, hbound⟩

/-- Bit 0 of an address says whether it is odd. -/
theorem even_of_getLsbD_zero {w : Word} (h : w.getLsbD 0 = false) : w.toNat % 2 = 0 := by
  simpa [BitVec.getLsbD, Nat.testBit_zero] using h

theorem cycle_keeps_controlInv {s t : State} (hs : ControlInv s) (h : cycle s = .next t) : ControlInv t := by
  rcases cycle_cases s with ⟨_, hc⟩ | ⟨_, _, hc⟩ | ⟨_, _, _, hc⟩ | ⟨_, _, _, _, hc⟩ | ⟨_, _, hpc, hbit, hc⟩ <;>
    rw [hc] at h
  · cases h
    exact hs
  · cases h
    exact controlInv_of_same hs rfl rfl rfl
  · cases h
    exact controlInv_of_same hs rfl rfl rfl
  · cases h
    exact controlInv_of_same hs rfl rfl rfl
  · rcases runAtPC_cases s with ⟨i, _, hi⟩ | ⟨_, hi⟩ <;> rw [hi] at h
    · exact exec_keeps_controlInv hs hpc (even_of_getLsbD_zero hbit) h
    · cases h
      exact controlInv_of_same hs rfl rfl rfl

/-- `INIT` empties the stack and puts PC at 0x200 (R261). -/
theorem controlInv_boot (s : State) (f : Font) (rom : List Byte) : ControlInv (s.boot f rom) :=
  ⟨Nat.zero_le _, fun _ _ h => absurd h (Nat.not_lt_zero _), by simp [State.boot, State.reset]⟩

/-- Settles O55: the cycle keeps it by `exec_controlEffect`, the other agents write none of its fields, and `INIT` starts anew. -/
theorem stepKeepsControlState : Obligations.StepKeepsControlState := by
  intro s t hs h
  rcases step_core_cases h with hc | hsame | ⟨f, rom, _, rfl⟩
  · exact cycle_keeps_controlInv (s := s.turnTaken) (controlInv_of_same hs rfl rfl rfl) hc
  · exact controlInv_of_same hs hsame.pc hsame.sp hsame.stack
  · exact controlInv_boot _ f rom

/-! ### No step stops the model (R210, R211, R266) -/

theorem cycle_answers {s : State} (hsp : s.sp.toNat ≤ 16) : ∃ t, cycle s = .next t := by
  rcases cycle_cases s with ⟨_, hc⟩ | ⟨_, _, hc⟩ | ⟨_, _, _, hc⟩ | ⟨_, _, _, _, hc⟩ | ⟨_, _, _, _, hc⟩ <;> rw [hc]
  · exact ⟨_, rfl⟩
  · exact ⟨_, rfl⟩
  · exact ⟨_, rfl⟩
  · exact ⟨_, rfl⟩
  · rcases runAtPC_cases s with ⟨i, _, hi⟩ | ⟨_, hi⟩ <;> rw [hi]
    · exact exec_answers i hsp
    · exact ⟨_, rfl⟩

theorem step_answers {s : State} (hsp : s.sp.toNat ≤ 16) (hboot : BootOk s) : ∃ t, step s = .next t := by
  rw [step_eq]
  cases hn : s.nextTurn with
  | cpu => exact cycle_answers (s := s.turnTaken) hsp
  | init f src =>
    obtain ⟨rom, rfl, hlen⟩ := hboot f src hn
    exact ⟨_, by rw [← hn, ← step_eq, step_init hn hlen]⟩
  | tickDT | tickST | keys | rnd | reply | cancel => exact ⟨_, rfl⟩

/-- Settles O58: every turn answers where SP is at most 16 and no `INIT` fails, and what it answers meets the invariant by O55. -/
theorem stepNeverStops : Obligations.StepNeverStops := by
  intro s hs hboot
  obtain ⟨t, ht⟩ := step_answers hs.1 hboot
  exact ⟨t, ht, stepKeepsControlState s t hs ht⟩

/-! ### RUN and the fault record (R34, R35, R211) -/

/-- What an instruction does to RUN: a fault, a hold of Fx0A, or RUN as it was, which for Fx0A is RUNNING. -/
theorem ControlEffect.run_cases {i : Instr} {s t : State} (h : ControlEffect i s t) :
    (∃ code info, t = s.raise code info) ∨ (∃ x, i = .ldVxK x ∧ t = s.setRun .waitKey) ∨
    (t.fault = s.fault ∧ (t.run = .running ∨ (∀ x, i ≠ .ldVxK x) ∧ t.run = s.run)) := by
  cases h with
  | raised code info ht => exact .inl ⟨code, info, ht⟩
  | held x hi ht => exact .inr (.inl ⟨x, hi, ht⟩)
  | returned hi _ _ ht | called _ hi _ ht =>
    subst hi ht
    exact .inr (.inr ⟨rfl, .inr ⟨nofun, rfl⟩⟩)
  | jumped _ hi _ ht =>
    subst ht
    exact .inr (.inr ⟨rfl, .inr ⟨hi, rfl⟩⟩)
  | advanced _ _ _ hfault hrun => exact .inr (.inr ⟨hfault, hrun⟩)

/-- In a core that can still run, the record is empty. -/
theorem fault_none_of_not_terminal {s : State} (hs : FaultInv s) (h : s.run.terminal = false) : s.fault = none := by
  by_contra hf
  rw [hs.1.2 hf] at h
  cases h

/-- With the record empty and RUN not FAULTED the fault invariant holds. -/
theorem faultInv_of_none {t : State} (hf : t.fault = none) (hr : t.run ≠ .faulted) : FaultInv t :=
  ⟨⟨fun h => absurd h hr, fun h => absurd hf h⟩, fun f h => by rw [hf] at h; cases h⟩

/-- `raise` writes the record with PC as it stands (R211). -/
theorem faultInv_raise (s : State) (code : FaultCode) (info : Word) : FaultInv (s.raise code info) :=
  ⟨⟨fun _ => nofun, fun _ => rfl⟩, fun _ h => by cases h; rfl⟩

theorem waitKeyInv_of_ne {t : State} (h : t.run ≠ .waitKey) : WaitKeyInv t := fun hr => absurd hr h

/-- The two invariants of this section together. -/
def RunInv (s : State) : Prop := FaultInv s ∧ WaitKeyInv s

/-- They speak of RUN, the record, PC and memory alone. -/
theorem runInv_of_same {s t : State} (hs : RunInv s) (hrun : t.run = s.run) (hfault : t.fault = s.fault) (hpc : t.pc = s.pc)
    (hmem : t.mem = s.mem) : RunInv t := by
  unfold RunInv FaultInv WaitKeyInv State.byteAt
  rw [hrun, hfault, hpc, hmem]
  exact hs

theorem runInv_raise (s : State) (code : FaultCode) (info : Word) : RunInv (s.raise code info) :=
  ⟨faultInv_raise s code info, waitKeyInv_of_ne nofun⟩

/-- An instruction fetched by a core that runs or waits keeps both: where the core waits, the instruction is Fx0A. -/
theorem exec_keeps_runInv {i : Instr} {s t : State} (hs : RunInv s) (hterm : s.run.terminal = false) (hpc : s.pc.toNat < 0x1000)
    (heven : s.pc.toNat % 2 = 0) (hdec : decode s.fetchBytes = .ok (i, [])) (h : exec i s = .next t) : RunInv t := by
  obtain ⟨hfault, hwait⟩ := hs
  have hnone := fault_none_of_not_terminal hfault hterm
  rcases (exec_controlEffect h).run_cases with ⟨code, info, rfl⟩ | ⟨x, rfl, rfl⟩ | ⟨hkept, hrun⟩
  · exact runInv_raise s code info
  · exact ⟨faultInv_of_none hnone nofun, fun _ => ⟨hpc, heven, x, hdec⟩⟩
  · rcases hrun with hrun | ⟨hi, hrun⟩
    · exact ⟨faultInv_of_none (hkept.trans hnone) (by simp [hrun]), waitKeyInv_of_ne (by simp [hrun])⟩
    · refine ⟨faultInv_of_none (hkept.trans hnone) fun hf => ?_, fun hw => ?_⟩
      · rw [← hrun, hf] at hterm
        cases hterm
      · obtain ⟨_, _, x, hx⟩ := hwait (hrun.symm.trans hw)
        rw [← fetchBytes_eq, hdec] at hx
        cases hx
        exact absurd rfl (hi x)

/-- A cycle that ends a run for a reason that is no fault keeps both. -/
theorem runInv_setRun {s : State} (hs : RunInv s) (hterm : s.run.terminal = false) {r : RunState} (hf : r ≠ .faulted)
    (hw : r ≠ .waitKey) : RunInv (s.setRun r) := by
  have hnone := fault_none_of_not_terminal hs.1 hterm
  exact ⟨faultInv_of_none hnone hf, waitKeyInv_of_ne hw⟩

theorem cycle_keeps_runInv {s t : State} (hs : RunInv s) (h : cycle s = .next t) : RunInv t := by
  rcases cycle_cases s with ⟨_, hc⟩ | ⟨hterm, _, hc⟩ | ⟨hterm, _, _, hc⟩ | ⟨_, _, _, _, hc⟩ | ⟨hterm, _, hpc, hbit, hc⟩ <;>
    rw [hc] at h
  · cases h
    exact hs
  · cases h
    exact runInv_setRun hs hterm nofun nofun
  · cases h
    exact runInv_setRun hs hterm nofun nofun
  · cases h
    exact runInv_raise s _ _
  · rcases runAtPC_cases s with ⟨i, hdec, hi⟩ | ⟨_, hi⟩ <;> rw [hi] at h
    · exact exec_keeps_runInv hs hterm hpc (even_of_getLsbD_zero hbit) hdec h
    · cases h
      exact runInv_raise s _ _

/-- `INIT` leaves RUNNING and an empty record (R261). -/
theorem runInv_boot (s : State) (f : Font) (rom : List Byte) : RunInv (s.boot f rom) :=
  ⟨faultInv_of_none rfl nofun, waitKeyInv_of_ne nofun⟩

/-- Settles O57: the cycle keeps both by `ControlEffect.run_cases`, the other agents write none of their fields, and `INIT` starts
anew. -/
theorem stepKeepsRunState : Obligations.StepKeepsRunState := by
  intro s t hfault hwait h
  rcases step_core_cases h with hc | hsame | ⟨f, rom, _, rfl⟩
  · exact cycle_keeps_runInv (s := s.turnTaken) (runInv_of_same ⟨hfault, hwait⟩ rfl rfl rfl rfl) hc
  · exact runInv_of_same ⟨hfault, hwait⟩ hsame.run hsame.fault hsame.pc hsame.mem
  · exact runInv_boot _ f rom

end Sys2Proof.Machine
end

section
/-! PROOFS. Which registers an instruction writes, and with what flag (O50). -/

namespace Sys2Proof.Machine

/-! ### Flags are 0 or 1 (R22) -/

theorem flagByte_eq_zero_or_one (c : Bool) : flagByte c = 0 ∨ flagByte c = 1 := by
  cases c
  · exact .inl rfl
  · exact .inr rfl

theorem and_one_eq_zero_or_one (b : Byte) : b &&& 1 = 0 ∨ b &&& 1 = 1 := by
  revert b; decide

/-! ### Registers that are no destination keep their value -/

/-- An instruction that writes its destination and advances leaves the other registers. -/
theorem advance_setReg_reg_of_ne {s : State} {x r : Reg} (b : Byte) (hr : (r == x) = false) :
    (s.setReg x b).advance.reg r = s.reg r := by
  rw [advance_reg, setReg_reg, if_neg fun h => by simp [h] at hr]

/-- An instruction changes only the registers it names as destination and, if it is a flag writer, VF. -/
theorem exec_keeps_reg {i : Instr} {s t : State} {r : Reg} (h : exec i s = .next t) (hdest : namesDest i r = false)
    (hflag : r = VF → writesFlag i = false) : t.reg r = s.reg r := by
  cases i with
  | cls | sys | jp | seImm | sneImm | seReg | sneReg | ldI | jpV0 | ldDTVx | ldSTVx | addIVx | ldFVx =>
    cases h
    rfl
  | ret =>
    obtain rfl | ⟨_, _, rfl⟩ := exec_ret_next h
    · rfl
    · rfl
  | call =>
    obtain rfl | ⟨_, rfl⟩ := exec_call_next h
    · rfl
    · rfl
  | skp | sknp =>
    obtain ⟨_, rfl⟩ | ⟨_, rfl⟩ := (checkKey_cases ..).1 h
    · rfl
    · rfl
  | ldBVx | ldMemVx =>
    obtain ⟨_, rfl⟩ | ⟨_, rfl⟩ := (checkRange_cases ..).1 h
    · rfl
    · rfl
  | ldImm | addImm | ldReg | orReg | andReg | xorReg | rnd | ldVxDT =>
    cases h
    exact advance_setReg_reg_of_ne _ hdest
  | ldVxK =>
    obtain rfl | rfl := exec_ldVxK_next h
    · rfl
    · exact advance_setReg_reg_of_ne _ hdest
  | addReg | sub | shr | subn | shl =>
    have hVF : VF ≠ r := fun h => nomatch hflag h.symm
    have hx := Ne.symm (beq_eq_false_iff_ne.1 hdest)
    cases h
    simp only [advance_reg, setReg_reg, hVF, hx, if_false]
  | drw =>
    have hVF : VF ≠ r := fun h => nomatch hflag h.symm
    obtain ⟨_, rfl⟩ | ⟨_, rfl⟩ := (checkRange_cases ..).1 h
    · rw [advance_reg, setReg_reg, if_neg hVF, drawSprite_reg]
    · rfl
  | ldVxMem x =>
    have hx : ¬ r ≤ x := of_decide_eq_false hdest
    obtain ⟨_, rfl⟩ | ⟨_, rfl⟩ := (checkRange_cases ..).1 h
    · rw [advance_reg, setRegs_reg, Fin.getElem_fin, getElem_loadRegsTo, if_neg hx]
    · rfl

/-! ### The flag of a flag writer -/

/-- A flag written before the destination is still there after it, where VF is not the destination. -/
theorem reg_VF_of_flag_then_dest {s : State} {x : Reg} (flag b : Byte) (hx : (VF == x) = false) :
    ((s.setReg VF flag).setReg x b).advance.reg VF = flag := by
  rw [advance_setReg_reg_of_ne b hx, setReg_reg, if_pos rfl]

/-- A flag writer that completes leaves 0 or 1 in a VF that is not its destination. -/
theorem exec_flag_eq_zero_or_one {i : Instr} {s t : State} (h : exec i s = .next t) (hflag : writesFlag i = true)
    (hdest : namesDest i VF = false) (hrun : t.run ≠ .faulted) : t.reg VF = 0 ∨ t.reg VF = 1 := by
  cases i with
  | addReg =>
    cases h
    rw [advance_reg, setReg_reg, if_pos rfl]
    exact flagByte_eq_zero_or_one _
  | sub | subn =>
    cases h
    rw [reg_VF_of_flag_then_dest _ _ hdest]
    exact flagByte_eq_zero_or_one _
  | shr | shl =>
    cases h
    rw [reg_VF_of_flag_then_dest _ _ hdest]
    exact and_one_eq_zero_or_one _
  | drw =>
    obtain ⟨_, rfl⟩ | ⟨_, rfl⟩ := (checkRange_cases ..).1 h
    · rw [advance_reg, setReg_reg, if_pos rfl]
      exact flagByte_eq_zero_or_one _
    · exact absurd rfl hrun
  | _ => cases hflag

/-- Settles O50, from the two lemmas on the writers of a register. -/
theorem writersOfRegisters : Obligations.WritersOfRegisters :=
  fun _ _ _ h => ⟨fun _ => exec_keeps_reg h, exec_flag_eq_zero_or_one h⟩

end Sys2Proof.Machine
end

section
/-! PROOFS. States that agree but for what the core sends out (the timer ST, the Buzzer, the Display, the events) execute alike: each
operation keeps the agreement, hence every instruction does (O51). -/

namespace Sys2Proof.Machine

namespace Agree

variable {parts : List Part} {s s' : State}

/-! ### What agreement says -/

theorem pc_eq (h : Agree parts s s') : s'.pc = s.pc := h.1

theorem reg_eq (h : Agree parts s s') (r : Reg) : s'.reg r = s.reg r := h.2.1 r id

theorem v_eq (h : Agree parts s s') : s'.v = s.v := regs_ext h.reg_eq

theorem read_eq (h : Agree parts s s') (a : Nat) : s'.mem.read a = s.mem.read a := h.2.2.1 a id

theorem same (h : Agree parts s s') {p : Part} (hp : p ∉ parts) : p.same s s' := h.2.2.2 p hp

/-- Agreement from its four parts. -/
theorem intro (hpc : s'.pc = s.pc) (hv : ∀ r, s'.reg r = s.reg r) (hmem : ∀ a, s'.mem.read a = s.mem.read a)
    (hsame : ∀ p, p ∉ parts → p.same s s') : Agree parts s s' :=
  ⟨hpc, fun r _ => hv r, fun a _ => hmem a, hsame⟩

/-! ### Operations keep agreement -/

theorem advance (h : Agree parts s s') : Agree parts s.advance s'.advance :=
  intro (by simp [h.pc_eq]) h.reg_eq h.read_eq fun p hp => by cases p <;> exact h.same hp

theorem skipIf (h : Agree parts s s') {c c' : Bool} (hc : c' = c) : Agree parts (s.skipIf c) (s'.skipIf c') :=
  intro (by simp [h.pc_eq, hc]) h.reg_eq h.read_eq fun p hp => by cases p <;> exact h.same hp

theorem jump (h : Agree parts s s') {w w' : Word} (hw : w' = w) : Agree parts (s.jump w) (s'.jump w') :=
  intro hw h.reg_eq h.read_eq fun p hp => by cases p <;> exact h.same hp

theorem setReg (h : Agree parts s s') (x : Reg) {b b' : Byte} (hb : b' = b) : Agree parts (s.setReg x b) (s'.setReg x b') :=
  intro h.pc_eq (fun r => by simp [h.reg_eq, hb]) h.read_eq fun p hp => by cases p <;> exact h.same hp

theorem setRegs (h : Agree parts s s') {v v' : Vector Byte 16} (hv : v' = v) : Agree parts (s.setRegs v) (s'.setRegs v') :=
  intro h.pc_eq (fun r => by simp [hv]) h.read_eq fun p hp => by cases p <;> exact h.same hp

theorem setMem (h : Agree parts s s') {m m' : Memory} (hm : ∀ a, m'.read a = m.read a) : Agree parts (s.setMem m) (s'.setMem m') :=
  intro h.pc_eq h.reg_eq hm fun p hp => by cases p <;> exact h.same hp

theorem setIndex (h : Agree parts s s') {w w' : Word} (hw : w' = w) : Agree parts (s.setIndex w) (s'.setIndex w') :=
  intro h.pc_eq h.reg_eq h.read_eq fun p hp => by
    cases p
    case index => exact hw
    all_goals exact h.same hp

theorem setRun (h : Agree parts s s') (r : RunState) : Agree parts (s.setRun r) (s'.setRun r) :=
  intro h.pc_eq h.reg_eq h.read_eq fun p hp => by
    cases p
    case runState => rfl
    all_goals exact h.same hp

theorem dtSet (h : Agree parts s s') {b b' : Byte} (hb : b' = b) : Agree parts (s.dtSet b) (s'.dtSet b') :=
  intro h.pc_eq h.reg_eq h.read_eq fun p hp => by
    cases p
    case delayTimer => exact hb
    all_goals exact h.same hp

theorem raise (h : Agree parts s s') (code : FaultCode) {w w' : Word} (hw : w' = w) :
    Agree parts (s.raise code w) (s'.raise code w') :=
  intro h.pc_eq h.reg_eq h.read_eq fun p hp => by
    cases p
    case runState => rfl
    case faultRecord => simp [Part.same, h.pc_eq, hw]
    all_goals exact h.same hp

theorem push (h : Agree parts s s') (hstack : .callStack ∉ parts) {w w' : Word} (hw : w' = w) (hlt : s.sp.toNat < 16)
    (hlt' : s'.sp.toNat < 16) : Agree parts (s.push w hlt) (s'.push w' hlt') :=
  intro h.pc_eq h.reg_eq h.read_eq fun p hp => by
    cases p
    case callStack =>
      obtain ⟨hsp, hst⟩ := h.same hstack
      simp [Part.same, hsp, hst, hw]
    all_goals exact h.same hp

theorem pop (h : Agree parts s s') (hstack : .callStack ∉ parts) : Agree parts s.pop s'.pop :=
  intro h.pc_eq h.reg_eq h.read_eq fun p hp => by
    cases p
    case callStack =>
      obtain ⟨hsp, hst⟩ := h.same hstack
      simp [Part.same, hsp, hst]
    all_goals exact h.same hp

/-- A set of ST writes the Buzzer and the events by the old value of ST, so they are left out of the agreement with it. -/
theorem stSet (h : Agree parts s s') (hsound : .soundTimer ∈ parts → .buzzer ∈ parts ∧ .events ∈ parts) {b b' : Byte} (hb : b' = b) :
    Agree parts (s.stSet b) (s'.stSet b') :=
  intro h.pc_eq h.reg_eq h.read_eq fun p hp => by
    cases p
    case soundTimer => exact hb
    case buzzer =>
      have hst : s'.st = s.st := h.same fun hm => hp (hsound hm).1
      have hbz : s'.buzzer = s.buzzer := h.same hp
      simp [Part.same, hst, hbz, hb]
    case events =>
      have hst : s'.st = s.st := h.same fun hm => hp (hsound hm).2
      have hev : s'.events = s.events := h.same hp
      simp [Part.same, hst, hev, hb]
    all_goals exact h.same hp

theorem consumeRandom (h : Agree parts s s') (hrandom : .random ∉ parts) : Agree parts s.consumeRandom s'.consumeRandom := by
  have hr : s'.rndIn = s.rndIn := h.same hrandom
  refine intro h.pc_eq h.reg_eq h.read_eq fun p hp => ?_
  cases p
  case random => simp [Part.same, hr]
  case draws =>
    have hd : s'.draws = s.draws := h.same hp
    simp [Part.same, hr, hd]
  all_goals exact h.same hp

theorem consumeChoice (h : Agree parts s s') {ks ks' : List Nat} (hk : ks' = ks) :
    Agree parts (s.consumeChoice ks) (s'.consumeChoice ks') :=
  intro h.pc_eq h.reg_eq h.read_eq fun p hp => by
    cases p
    case draws =>
      have hd : s'.draws = s.draws := h.same hp
      simp [Part.same, hk, hd]
    all_goals exact h.same hp

theorem clearDisplay (h : Agree parts s s') : Agree parts s.clearDisplay s'.clearDisplay :=
  intro h.pc_eq h.reg_eq h.read_eq fun p hp => by
    cases p
    case display =>
      have hd : s'.display = s.display := h.same hp
      simp [Part.same, hd]
    case events =>
      have he : s'.events = s.events := h.same hp
      simp [Part.same, he]
    all_goals exact h.same hp

theorem drawReply_eq (h : Agree parts s s') (hdisplay : .display ∉ parts) (hdraws : .draws ∉ parts) (x y : Byte) (bs : List Byte) :
    s'.drawReply x y bs = s.drawReply x y bs := by
  have hd : s'.display = s.display := h.same hdisplay
  have hn : s'.draws = s.draws := h.same hdraws
  rw [State.drawReply, State.drawReply, hd, hn]

theorem drawSprite (h : Agree parts s s') (hdisplay : .display ∉ parts) (hdraws : .draws ∉ parts) (x y : Byte) (bs : List Byte) :
    Agree parts (s.drawSprite x y bs) (s'.drawSprite x y bs) := by
  have hd : s'.display = s.display := h.same hdisplay
  have hn : s'.draws = s.draws := h.same hdraws
  refine intro h.pc_eq h.reg_eq h.read_eq fun p hp => ?_
  cases p
  case display => simp [Part.same, hd, hn]
  case draws => simp [Part.same, hd, hn]
  case events =>
    have he : s'.events = s.events := h.same hp
    simp [Part.same, he, h.drawReply_eq hdisplay hdraws]
  all_goals exact h.same hp

/-! ### Operands read alike -/

theorem isPressed_eq (h : Agree parts s s') (hkeys : .keys ∉ parts) : s'.isPressed = s.isPressed := by
  have hk : s'.keys = s.keys := h.same hkeys
  funext k
  rw [State.isPressed, State.isPressed, hk]

theorem pressedKeys_eq (h : Agree parts s s') (hkeys : .keys ∉ parts) : s'.pressedKeys = s.pressedKeys := by
  rw [State.pressedKeys, State.pressedKeys, h.isPressed_eq hkeys]

theorem chosenKey_eq (h : Agree parts s s') (hdraws : .draws ∉ parts) (ks : List Nat) : s'.chosenKey ks = s.chosenKey ks := by
  have hn : s'.draws = s.draws := h.same hdraws
  match ks with
  | [] => rfl
  | [_] => rfl
  | _ :: _ :: _ => simp only [State.chosenKey, hn]

theorem randomByte_eq (h : Agree parts s s') (hrandom : .random ∉ parts) (hdraws : .draws ∉ parts) : s'.randomByte = s.randomByte := by
  have hr : s'.rndIn = s.rndIn := h.same hrandom
  have hn : s'.draws = s.draws := h.same hdraws
  rw [State.randomByte, State.randomByte, hr, hn]

theorem bytesAtI_eq (h : Agree parts s s') (hindex : .index ∉ parts) (n : Nat) : s'.bytesAtI n = s.bytesAtI n := by
  have hi : s'.i = s.i := h.same hindex
  apply List.ext_getElem
  · simp
  · intro k _ _
    simp [State.bytesAtI, hi, h.read_eq]

theorem regsTo_eq (h : Agree parts s s') (x : Reg) : s'.regsTo x = s.regsTo x := by
  rw [State.regsTo, State.regsTo, h.v_eq]

theorem loadRegsTo_eq (h : Agree parts s s') (hindex : .index ∉ parts) (x : Reg) : s'.loadRegsTo x = s.loadRegsTo x := by
  have hi : s'.i = s.i := h.same hindex
  simp only [State.loadRegsTo, State.ea, hi, h.read_eq, h.reg_eq]

theorem read_storeAtI_eq (h : Agree parts s s') (hindex : .index ∉ parts) (bs : List Byte) (a : Nat) :
    (s'.storeAtI bs).read a = (s.storeAtI bs).read a := by
  have hi : s'.i = s.i := h.same hindex
  rw [State.storeAtI, State.storeAtI, hi, Memory.read_writeBytes, Memory.read_writeBytes, h.read_eq]

end Agree

/-! ### Results that agree -/

/-- Whatever next state the first result answers, the second answers one that agrees with it. -/
def AnswersAlike (parts : List Part) (r r' : Result) : Prop := ∀ t, r = .next t → ∃ t', r' = .next t' ∧ Agree parts t t'

section
variable {parts : List Part} {s s' e e' : State}

theorem answersAlike_next (h : Agree parts e e') : AnswersAlike parts (.next e) (.next e') := by
  rintro t ⟨⟩
  exact ⟨e', rfl, h⟩

theorem answersAlike_checkRange (h : Agree parts s s') (hindex : .index ∉ parts) (len : Nat) (he : Agree parts e e') :
    AnswersAlike parts (s.checkRange len e) (s'.checkRange len e') := by
  have hi : s'.i = s.i := h.same hindex
  have hok : s'.rangeOk len = s.rangeOk len := by rw [State.rangeOk, State.rangeOk, hi]
  have hout : s'.firstOutside = s.firstOutside := by rw [State.firstOutside, State.firstOutside, hi]
  unfold State.checkRange
  rw [hok]
  split_ifs
  · exact answersAlike_next he
  · exact answersAlike_next (h.raise _ hout)

theorem answersAlike_checkKey (h : Agree parts s s') (x : Reg) (he : Agree parts e e') :
    AnswersAlike parts (s.checkKey x e) (s'.checkKey x e') := by
  unfold State.checkKey
  rw [h.reg_eq]
  split_ifs
  · exact answersAlike_next (h.raise _ rfl)
  · exact answersAlike_next he

theorem answersAlike_ret (h : Agree parts s s') (hstack : .callStack ∉ parts) : AnswersAlike parts (execRet s) (execRet s') := by
  obtain ⟨hsp, hst⟩ := h.same hstack
  unfold execRet
  simp only [hsp, hst]
  split_ifs
  · exact answersAlike_next (h.raise _ rfl)
  · exact answersAlike_next ((h.jump rfl).pop hstack)
  · exact fun _ => nofun

theorem answersAlike_call (h : Agree parts s s') (hstack : .callStack ∉ parts) (nnn : Addr) :
    AnswersAlike parts (execCall nnn s) (execCall nnn s') := by
  obtain ⟨hsp, -⟩ := h.same hstack
  unfold execCall
  simp only [hsp]
  split_ifs with _ hlt
  · exact answersAlike_next (h.raise _ rfl)
  · exact answersAlike_next ((h.push hstack (by rw [h.pc_eq]) hlt _).jump rfl)
  · exact fun _ => nofun

theorem answersAlike_ldVxK (h : Agree parts s s') (hkeys : .keys ∉ parts) (hdraws : .draws ∉ parts) (x : Reg) :
    AnswersAlike parts (execLdVxK x s) (execLdVxK x s') := by
  have hk : s'.keys = s.keys := h.same hkeys
  have hp := h.pressedKeys_eq hkeys
  unfold execLdVxK
  rw [hk]
  split_ifs
  · exact answersAlike_next (h.setRun _)
  · exact answersAlike_next ((((h.consumeChoice hp).setReg x (by rw [hp, h.chosenKey_eq hdraws])).setRun _).advance)

/-- The parts the core sends out and no instruction but Dxyn takes anything back from (R37, R38). -/
def outputParts : List Part := [.soundTimer, .buzzer, .events, .display]

/-- Two states that agree but for some of the outputs execute every instruction alike, Dxyn where the Display is not among them. -/
theorem exec_answersAlike (i : Instr) (hout : ∀ p ∈ parts, p ∈ outputParts)
    (hsound : .soundTimer ∈ parts → .buzzer ∈ parts ∧ .events ∈ parts) (hdraw : .display ∈ parts → ∀ x y n, i ≠ .drw x y n)
    (h : Agree parts s s') : AnswersAlike parts (exec i s) (exec i s') := by
  have hin {p : Part} (hp : p ∉ outputParts) : p ∉ parts := fun hm => hp (hout p hm)
  have hindex : .index ∉ parts := hin (by decide)
  have hstack : .callStack ∉ parts := hin (by decide)
  have hkeys : .keys ∉ parts := hin (by decide)
  have hrandom : .random ∉ parts := hin (by decide)
  have hdraws : .draws ∉ parts := hin (by decide)
  cases i with
  | cls => exact answersAlike_next h.clearDisplay.advance
  | ret => exact answersAlike_ret h hstack
  | call nnn => exact answersAlike_call h hstack nnn
  | sys | jp => exact answersAlike_next (h.jump rfl)
  | jpV0 => exact answersAlike_next (h.jump (by rw [h.reg_eq]))
  | seImm | sneImm => exact answersAlike_next (h.skipIf (by rw [h.reg_eq]))
  | seReg | sneReg => exact answersAlike_next (h.skipIf (by rw [h.reg_eq, h.reg_eq]))
  | ldImm x => exact answersAlike_next (h.setReg x rfl).advance
  | addImm x => exact answersAlike_next (h.setReg x (by rw [h.reg_eq])).advance
  | ldReg x y => exact answersAlike_next (h.setReg x (h.reg_eq y)).advance
  | orReg x | andReg x | xorReg x => exact answersAlike_next (h.setReg x (by rw [h.reg_eq, h.reg_eq])).advance
  | addReg x =>
    exact answersAlike_next ((h.setReg x (by rw [h.reg_eq, h.reg_eq])).setReg VF (by rw [h.reg_eq, h.reg_eq])).advance
  | sub x y =>
    have hVF := h.setReg VF (congrArg₂ greaterFlag (h.reg_eq x) (h.reg_eq y))
    exact answersAlike_next (hVF.setReg x (by rw [hVF.reg_eq, hVF.reg_eq])).advance
  | subn x y =>
    have hVF := h.setReg VF (congrArg₂ greaterFlag (h.reg_eq y) (h.reg_eq x))
    exact answersAlike_next (hVF.setReg x (by rw [hVF.reg_eq, hVF.reg_eq])).advance
  | shr x =>
    have hVF := h.setReg VF (congrArg lowBitFlag (h.reg_eq x))
    exact answersAlike_next (hVF.setReg x (by rw [hVF.reg_eq])).advance
  | shl x =>
    have hVF := h.setReg VF (congrArg highBitFlag (h.reg_eq x))
    exact answersAlike_next (hVF.setReg x (by rw [hVF.reg_eq])).advance
  | ldI => exact answersAlike_next (h.setIndex rfl).advance
  | rnd x =>
    exact answersAlike_next ((h.consumeRandom hrandom).setReg x (by rw [h.randomByte_eq hrandom hdraws])).advance
  | drw x y n =>
    have hdisplay : .display ∉ parts := fun hm => hdraw hm x y n rfl
    change AnswersAlike parts (execDrw x y n s) (execDrw x y n s')
    unfold execDrw
    simp only [h.reg_eq, h.bytesAtI_eq hindex]
    exact answersAlike_checkRange h hindex _
      ((h.drawSprite hdisplay hdraws ..).setReg VF (by rw [h.drawReply_eq hdisplay hdraws])).advance
  | skp x | sknp x => exact answersAlike_checkKey h x (h.skipIf (by rw [h.reg_eq, h.isPressed_eq hkeys]))
  | ldVxDT x => exact answersAlike_next (h.setReg x (h.same (hin (p := .delayTimer) (by decide)))).advance
  | ldVxK x => exact answersAlike_ldVxK h hkeys hdraws x
  | ldDTVx x => exact answersAlike_next (h.dtSet (h.reg_eq x)).advance
  | ldSTVx x => exact answersAlike_next (h.stSet hsound (h.reg_eq x)).advance
  | addIVx x =>
    have hi : s'.i = s.i := h.same hindex
    exact answersAlike_next (h.setIndex (by rw [hi, h.reg_eq])).advance
  | ldFVx => exact answersAlike_next (h.setIndex (by rw [h.reg_eq])).advance
  | ldBVx x =>
    exact answersAlike_checkRange h hindex _ (h.setMem (by rw [h.reg_eq]; exact h.read_storeAtI_eq hindex _)).advance
  | ldMemVx x =>
    exact answersAlike_checkRange h hindex _ (h.setMem (by rw [h.regsTo_eq]; exact h.read_storeAtI_eq hindex _)).advance
  | ldVxMem x => exact answersAlike_checkRange h hindex _ (h.setRegs (h.loadRegsTo_eq hindex x)).advance

end

/-- Settles O51: ST, the Buzzer and the events are outputs, and ST takes the other two with it. -/
theorem soundTimerInvisibleToCore : Obligations.SoundTimerInvisibleToCore := fun i _ _ t h =>
  exec_answersAlike i (by decide) (by decide) (fun hm => absurd hm (by decide)) h t

end Sys2Proof.Machine
end

section
/-! PROOFS. Whose turn it is, and what the inputs of the environment change (O12). -/

namespace Sys2Proof.Machine

/-! ### The next turn where no agenda is given -/

theorem turnTaken_nil {s : State} (h : s.agenda = []) :
    s.turnTaken = { s with agenda := s.plan.tail, rounds := s.rounds + 1 } := by
  simp only [State.turnTaken, h, if_true]

theorem init_not_mem_fairRound (drawn : List Turn) (f : Font) (src : RomSource) : .init f src ∉ fairRound drawn :=
  fun h => nomatch isInit_of_mem_fairRound h

/-! ### A turn that sets one input -/

/-- A change of one part alone, for the frames of the inputs. -/
theorem frame_of_only_part {s t : State} {q : Part} (hv : t.v = s.v) (hmem : t.mem = s.mem) (hsame : ∀ p, p ≠ q → p.same s t) :
    Frame noReg noByte [q] s t :=
  ⟨fun r _ => by rw [State.reg, State.reg, hv], fun a _ => by rw [State.byteAt, State.byteAt, hmem],
    fun p hp => hsame p (by simpa using hp)⟩

theorem frame_keys (s : State) (w : Word) : Frame noReg noByte [.keys] s { s with keys := w } :=
  frame_of_only_part rfl rfl fun p hp => by cases p <;> simp_all [Part.same]

theorem frame_rndIn (s : State) (bs : List Byte) : Frame noReg noByte [.random] s { s with rndIn := bs } :=
  frame_of_only_part rfl rfl fun p hp => by cases p <;> simp_all [Part.same]

theorem frame_cancel (s : State) (c : Bool) : Frame noReg noByte [.cancel] s { s with cancel := c } :=
  frame_of_only_part rfl rfl fun p hp => by cases p <;> simp_all [Part.same]

theorem frame_display (s : State) (d : Display) : Frame noReg noByte [.display] s { s with display := d } :=
  frame_of_only_part rfl rfl fun p hp => by cases p <;> simp_all [Part.same]

/-- Only an external Display is given the reply (R180). -/
theorem supply_of_not_external {d : Display} (c : Bool) (h : ∀ cs, d ≠ .external cs) : d.supply c = d := by
  cases d with
  | reference => rfl
  | null => rfl
  | external cs => exact absurd rfl (h cs)

/-- Settles O12: the schedule from the laws of `plan` and `fairRound`, the inputs from `takeTurn` and a frame each. -/
theorem inputsReachOnlyTheirLines : Obligations.InputsReachOnlyTheirLines := by
  refine ⟨fun s a as h => ⟨nextTurn_cons h, turnTaken_cons h⟩, fun s h => ?_, fun s => ⟨?_, ?_, ?_, ?_⟩⟩
  · have hplan : s.nextTurn :: s.plan.tail = fairRound (Config.freeRound s.rounds) := by rw [← plan_eq, plan_nil h]
    refine ⟨s.nextTurn, s.plan.tail, hplan, rfl, turnTaken_nil h, ?_⟩
    rw [hplan]
    exact ⟨mem_fairRound _ (by decide), mem_fairRound _ (by decide), mem_fairRound _ (by decide), init_not_mem_fairRound _⟩
  · intro w hn
    exact ⟨{ s.turnTaken with keys := w }, by rw [step_eq, hn, takeTurn], rfl, rfl, frame_keys _ w⟩
  · intro b hn
    exact ⟨{ s.turnTaken with rndIn := s.rndIn ++ [b] }, by rw [step_eq, hn]; rfl, rfl, rfl, frame_rndIn _ _⟩
  · intro hn
    exact ⟨{ s.turnTaken with cancel := true }, by rw [step_eq, hn, takeTurn], rfl, rfl, frame_cancel _ true⟩
  · intro c hn
    refine ⟨{ s.turnTaken with display := s.display.supply c }, by rw [step_eq, hn]; rfl, rfl, fun cs hd => ?_,
      supply_of_not_external c, frame_display _ _⟩
    simp only [hd, Display.supply]

end Sys2Proof.Machine
end

section
/-! PROOFS. What an instruction does to memory, said once; from it, that every step keeps memory in its canonical form (O54). -/

namespace Sys2Proof.Machine

/-! ### What an instruction does to memory (R51, R56) -/

/-- An instruction leaves memory as it was, or is Fx33 or Fx55 and stores bytes at I that are all inside memory. -/
theorem exec_mem_cases {i : Instr} {s t : State} (h : exec i s = .next t) :
    t.mem = s.mem ∨
    ∃ bs, (∃ x, i = .ldBVx x ∨ i = .ldMemVx x) ∧ s.rangeOk bs.length = true ∧ t.mem = s.storeAtI bs := by
  cases i with
  | ldBVx x =>
    obtain ⟨hok, rfl⟩ | ⟨_, rfl⟩ := (checkRange_cases ..).1 h
    · exact .inr ⟨bcdDigits (s.reg x), ⟨x, .inl rfl⟩, hok, rfl⟩
    · exact .inl rfl
  | ldMemVx x =>
    obtain ⟨hok, rfl⟩ | ⟨_, rfl⟩ := (checkRange_cases ..).1 h
    · exact .inr ⟨s.regsTo x, ⟨x, .inr rfl⟩, by rw [length_regsTo]; exact hok, rfl⟩
    · exact .inl rfl
  | ret =>
    obtain rfl | ⟨_, _, rfl⟩ := exec_ret_next h
    · exact .inl rfl
    · exact .inl rfl
  | call =>
    obtain rfl | ⟨_, rfl⟩ := exec_call_next h
    · exact .inl rfl
    · exact .inl rfl
  | ldVxK =>
    obtain rfl | rfl := exec_ldVxK_next h
    · exact .inl rfl
    · exact .inl rfl
  | skp | sknp =>
    obtain ⟨_, rfl⟩ | ⟨_, rfl⟩ := (checkKey_cases ..).1 h
    · exact .inl rfl
    · exact .inl rfl
  | drw | ldVxMem =>
    obtain ⟨_, rfl⟩ | ⟨_, rfl⟩ := (checkRange_cases ..).1 h
    · exact .inl rfl
    · exact .inl rfl
  | cls | sys | jp | seImm | sneImm | seReg | ldImm | addImm | ldReg | orReg | andReg | xorReg | addReg | sub | shr | subn | shl
  | sneReg | ldI | jpV0 | rnd | ldVxDT | ldDTVx | ldSTVx | addIVx | ldFVx =>
    cases h
    exact .inl rfl

/-! ### The canonical form (log entry 8) -/

/-- Bytes stored at I inside memory keep its canonical form. -/
theorem wf_storeAtI {s : State} {bs : List Byte} (hs : MemoryInv s) (hok : s.rangeOk bs.length = true) : (s.storeAtI bs).wf := by
  rcases (rangeOk_iff ..).1 hok with hnil | hle
  · rw [List.length_eq_zero_iff.1 hnil]
    exact hs
  · exact Memory.wf_writeBytes bs hs hle

/-- The invariant speaks of memory alone. -/
theorem memoryInv_of_same {s t : State} (hs : MemoryInv s) (hmem : t.mem = s.mem) : MemoryInv t := by
  unfold MemoryInv
  rw [hmem]
  exact hs

theorem exec_keeps_memoryInv {i : Instr} {s t : State} (hs : MemoryInv s) (h : exec i s = .next t) : MemoryInv t := by
  rcases exec_mem_cases h with hmem | ⟨bs, _, hok, hmem⟩
  · exact memoryInv_of_same hs hmem
  · unfold MemoryInv
    rw [hmem]
    exact wf_storeAtI hs hok

theorem cycle_keeps_memoryInv {s t : State} (hs : MemoryInv s) (h : cycle s = .next t) : MemoryInv t := by
  rcases cycle_cases s with ⟨_, hc⟩ | ⟨_, _, hc⟩ | ⟨_, _, _, hc⟩ | ⟨_, _, _, _, hc⟩ | ⟨_, _, _, _, hc⟩ <;> rw [hc] at h
  · cases h
    exact hs
  · cases h
    exact memoryInv_of_same hs rfl
  · cases h
    exact memoryInv_of_same hs rfl
  · cases h
    exact memoryInv_of_same hs rfl
  · rcases runAtPC_cases s with ⟨i, _, hi⟩ | ⟨_, hi⟩ <;> rw [hi] at h
    · exact exec_keeps_memoryInv hs h
    · cases h
      exact memoryInv_of_same hs rfl

/-- Settles O54: the cycle stores only inside memory by `exec_mem_cases`, the other agents store nothing, and `INIT` builds a canonical
memory. -/
theorem stepKeepsMemoryCanonical : Obligations.StepKeepsMemoryCanonical := by
  intro s t hs h
  rcases step_core_cases h with hc | hsame | ⟨f, rom, hlen, rfl⟩
  · exact cycle_keeps_memoryInv (s := s.turnTaken) hs hc
  · exact memoryInv_of_same hs hsame.mem
  · exact wf_initMemory f hlen

end Sys2Proof.Machine
end

section
/-! PROOFS. Which instructions write each part of the state, part by part as in the tables of 10_state.md (O49). -/

namespace Sys2Proof.Machine

/-- The instructions that write a part. RUN and the fault record any instruction can write, by taking a fault (R211). -/
def Part.WrittenBy (i : Instr) : Part → Prop
  | .index => (∃ n, i = .ldI n) ∨ ∃ x, i = .addIVx x ∨ i = .ldFVx x
  | .callStack => i = .ret ∨ ∃ n, i = .call n
  | .delayTimer => ∃ x, i = .ldDTVx x
  | .soundTimer => ∃ x, i = .ldSTVx x
  | .runState => True
  | .faultRecord => True
  | .display => i = .cls ∨ ∃ x y n, i = .drw x y n
  | .buzzer => ∃ x, i = .ldSTVx x
  | .events => i = .cls ∨ (∃ x y n, i = .drw x y n) ∨ ∃ x, i = .ldSTVx x
  | .keys => False
  | .random => ∃ x kk, i = .rnd x kk
  | .cancel => False
  | .draws => (∃ x y n, i = .drw x y n) ∨ (∃ x kk, i = .rnd x kk) ∨ ∃ x, i = .ldVxK x
  | .agenda => False

/-! ### The parts each operation leaves as they were -/

namespace Part.same

variable {p : Part} {s e : State}

theorem refl (p : Part) (s : State) : p.same s s := by
  cases p
  case callStack | agenda => exact ⟨rfl, rfl⟩
  all_goals rfl

theorem advance (h : p.same s e) : p.same s e.advance := by
  cases p <;> exact h

theorem skipIf (h : p.same s e) (c : Bool) : p.same s (e.skipIf c) := by
  cases p <;> exact h

theorem jump (h : p.same s e) (w : Word) : p.same s (e.jump w) := by
  cases p <;> exact h

theorem setReg (h : p.same s e) (x : Reg) (b : Byte) : p.same s (e.setReg x b) := by
  cases p <;> exact h

theorem setRegs (h : p.same s e) (v : Vector Byte 16) : p.same s (e.setRegs v) := by
  cases p <;> exact h

theorem setMem (h : p.same s e) (m : Memory) : p.same s (e.setMem m) := by
  cases p <;> exact h

theorem setIndex (h : p.same s e) (w : Word) (hp : p ≠ .index) : p.same s (e.setIndex w) := by
  cases p
  case index => exact absurd rfl hp
  all_goals exact h

theorem setRun (h : p.same s e) (r : RunState) (hp : p ≠ .runState) : p.same s (e.setRun r) := by
  cases p
  case runState => exact absurd rfl hp
  all_goals exact h

theorem raise (h : p.same s e) (code : FaultCode) (info : Word) (hrun : p ≠ .runState) (hfault : p ≠ .faultRecord) :
    p.same s (e.raise code info) := by
  cases p
  case runState => exact absurd rfl hrun
  case faultRecord => exact absurd rfl hfault
  all_goals exact h

theorem push (h : p.same s e) (w : Word) (hlt : e.sp.toNat < 16) (hp : p ≠ .callStack) : p.same s (e.push w hlt) := by
  cases p
  case callStack => exact absurd rfl hp
  all_goals exact h

theorem pop (h : p.same s e) (hp : p ≠ .callStack) : p.same s e.pop := by
  cases p
  case callStack => exact absurd rfl hp
  all_goals exact h

theorem dtSet (h : p.same s e) (b : Byte) (hp : p ≠ .delayTimer) : p.same s (e.dtSet b) := by
  cases p
  case delayTimer => exact absurd rfl hp
  all_goals exact h

theorem stSet (h : p.same s e) (b : Byte) (hst : p ≠ .soundTimer) (hbuzzer : p ≠ .buzzer) (hevents : p ≠ .events) :
    p.same s (e.stSet b) := by
  cases p
  case soundTimer => exact absurd rfl hst
  case buzzer => exact absurd rfl hbuzzer
  case events => exact absurd rfl hevents
  all_goals exact h

theorem clearDisplay (h : p.same s e) (hdisplay : p ≠ .display) (hevents : p ≠ .events) : p.same s e.clearDisplay := by
  cases p
  case display => exact absurd rfl hdisplay
  case events => exact absurd rfl hevents
  all_goals exact h

theorem drawSprite (h : p.same s e) (x y : Byte) (bs : List Byte) (hdisplay : p ≠ .display) (hdraws : p ≠ .draws)
    (hevents : p ≠ .events) : p.same s (e.drawSprite x y bs) := by
  cases p
  case display => exact absurd rfl hdisplay
  case draws => exact absurd rfl hdraws
  case events => exact absurd rfl hevents
  all_goals exact h

theorem consumeRandom (h : p.same s e) (hrandom : p ≠ .random) (hdraws : p ≠ .draws) : p.same s e.consumeRandom := by
  cases p
  case random => exact absurd rfl hrandom
  case draws => exact absurd rfl hdraws
  all_goals exact h

theorem consumeChoice (h : p.same s e) (ks : List Nat) (hdraws : p ≠ .draws) : p.same s (e.consumeChoice ks) := by
  cases p
  case draws => exact absurd rfl hdraws
  all_goals exact h

end Part.same

/-! ### The parts each instruction leaves as they were -/

/-- An instruction leaves every part as it was that it is not among the writers of. -/
theorem exec_keeps_part {i : Instr} {s t : State} {p : Part} (h : exec i s = .next t) (hp : ¬ p.WrittenBy i) : p.same s t := by
  have hne {q : Part} (hq : q.WrittenBy i) : p ≠ q := by
    rintro rfl
    exact hp hq
  have hrun : p ≠ .runState := hne trivial
  have hfault : p ≠ .faultRecord := hne trivial
  have hs : p.same s s := .refl p s
  cases i with
  | cls =>
    cases h
    exact (hs.clearDisplay (hne (.inl rfl)) (hne (.inl rfl))).advance
  | ret =>
    obtain rfl | ⟨_, _, rfl⟩ := exec_ret_next h
    · exact hs.raise _ _ hrun hfault
    · exact (hs.jump _).pop (hne (.inl rfl))
  | call =>
    obtain rfl | ⟨_, rfl⟩ := exec_call_next h
    · exact hs.raise _ _ hrun hfault
    · exact (hs.push _ _ (hne (.inr ⟨_, rfl⟩))).jump _
  | sys | jp | jpV0 =>
    cases h
    exact hs.jump _
  | seImm | sneImm | seReg | sneReg =>
    cases h
    exact hs.skipIf _
  | ldImm | addImm | ldReg | orReg | andReg | xorReg | ldVxDT =>
    cases h
    exact (hs.setReg ..).advance
  | addReg | sub | shr | subn | shl =>
    cases h
    exact ((hs.setReg ..).setReg ..).advance
  | ldI =>
    cases h
    exact (hs.setIndex _ (hne (.inl ⟨_, rfl⟩))).advance
  | addIVx =>
    cases h
    exact (hs.setIndex _ (hne (.inr ⟨_, .inl rfl⟩))).advance
  | ldFVx =>
    cases h
    exact (hs.setIndex _ (hne (.inr ⟨_, .inr rfl⟩))).advance
  | rnd =>
    cases h
    exact ((hs.consumeRandom (hne ⟨_, _, rfl⟩) (hne (.inr (.inl ⟨_, _, rfl⟩)))).setReg ..).advance
  | drw =>
    obtain ⟨_, rfl⟩ | ⟨_, rfl⟩ := (checkRange_cases ..).1 h
    · exact ((hs.drawSprite _ _ _ (hne (.inr ⟨_, _, _, rfl⟩)) (hne (.inl ⟨_, _, _, rfl⟩))
        (hne (.inr (.inl ⟨_, _, _, rfl⟩)))).setReg ..).advance
    · exact hs.raise _ _ hrun hfault
  | skp | sknp =>
    obtain ⟨_, rfl⟩ | ⟨_, rfl⟩ := (checkKey_cases ..).1 h
    · exact hs.skipIf _
    · exact hs.raise _ _ hrun hfault
  | ldVxK =>
    obtain rfl | rfl := exec_ldVxK_next h
    · exact hs.setRun _ hrun
    · exact (((hs.consumeChoice _ (hne (.inr (.inr ⟨_, rfl⟩)))).setReg ..).setRun _ hrun).advance
  | ldDTVx =>
    cases h
    exact (hs.dtSet _ (hne ⟨_, rfl⟩)).advance
  | ldSTVx =>
    cases h
    exact (hs.stSet _ (hne ⟨_, rfl⟩) (hne ⟨_, rfl⟩) (hne (.inr (.inr ⟨_, rfl⟩)))).advance
  | ldBVx | ldMemVx =>
    obtain ⟨_, rfl⟩ | ⟨_, rfl⟩ := (checkRange_cases ..).1 h
    · exact (hs.setMem _).advance
    · exact hs.raise _ _ hrun hfault
  | ldVxMem =>
    obtain ⟨_, rfl⟩ | ⟨_, rfl⟩ := (checkRange_cases ..).1 h
    · exact (hs.setRegs _).advance
    · exact hs.raise _ _ hrun hfault

/-- Of the call stack 00EE writes SP alone: the popped entry keeps its value (R28, R130). -/
theorem exec_keeps_stack {i : Instr} {s t : State} (h : exec i s = .next t) (hcall : ∀ n, i ≠ .call n) : t.stack = s.stack := by
  cases exec_controlEffect h with
  | raised _ _ ht | held _ _ ht | returned _ _ _ ht | jumped _ _ _ ht =>
    subst ht
    rfl
  | called n hi => exact absurd hi (hcall n)
  | advanced _ _ hstack => exact hstack

/-- An instruction other than Fx33 and Fx55 leaves every byte of memory as it was (R51). -/
theorem exec_keeps_byteAt {i : Instr} {s t : State} (h : exec i s = .next t) (hstore : ∀ x, i ≠ .ldBVx x ∧ i ≠ .ldMemVx x)
    (a : Nat) : t.byteAt a = s.byteAt a := by
  rcases exec_mem_cases h with hmem | ⟨_, ⟨x, hi⟩, _⟩
  · rw [State.byteAt, hmem, State.byteAt]
  · exact absurd hi (not_or.2 (hstore x))

/-- Settles O49: memory and the stack by their own lemmas, every other part by `exec_keeps_part`. -/
theorem writersOfEachState : Obligations.WritersOfEachState := by
  intro i s t h
  have hkeys : t.keys = s.keys := exec_keeps_part (p := .keys) h id
  have hcancel : t.cancel = s.cancel := exec_keeps_part (p := .cancel) h id
  have hagenda : t.agenda = s.agenda ∧ t.rounds = s.rounds := exec_keeps_part (p := .agenda) h id
  refine ⟨exec_keeps_byteAt h, fun hld hx => ?_, fun hret hcall => ?_, exec_keeps_stack h, fun hdt => ?_, fun hst => ?_,
    fun hcls hdrw => ?_, fun hrnd => ?_, hkeys, hcancel, hagenda⟩
  · refine exec_keeps_part (p := .index) h (not_or.2 ⟨fun ⟨n, hi⟩ => hld n hi, fun ⟨x, hi⟩ => ?_⟩)
    exact not_or.2 (hx x) hi
  · exact (exec_keeps_part (p := .callStack) h (not_or.2 ⟨hret, not_exists.2 hcall⟩)).1
  · exact exec_keeps_part (p := .delayTimer) h (not_exists.2 hdt)
  · exact ⟨exec_keeps_part (p := .soundTimer) h (not_exists.2 hst), exec_keeps_part (p := .buzzer) h (not_exists.2 hst)⟩
  · exact exec_keeps_part (p := .display) h (not_or.2 ⟨hcls, fun ⟨x, y, n, hi⟩ => hdrw x y n hi⟩)
  · exact exec_keeps_part (p := .random) h fun ⟨x, kk, hi⟩ => hrnd x kk hi

end Sys2Proof.Machine
end

section
/-! PROOFS. What Fx55 stores is what a cycle fetches and runs (O38). -/

namespace Sys2Proof.Machine

theorem getLsbD_zero_of_even {w : Word} (h : w.toNat % 2 = 0) : w.getLsbD 0 = false := by
  simpa [BitVec.getLsbD, Nat.testBit_zero] using h

/-- Fx55 in bounds stores V0..Vx at I and advances (R174). -/
theorem exec_ldMemVx_inBounds {s : State} {x : Reg} (h : s.i.toNat + x.val ≤ 0xFFF) :
    exec (.ldMemVx x) s = .next (s.setMem (s.storeAtI (s.regsTo x))).advance :=
  (checkRange_cases ..).2 (.inl ⟨(rangeOk_iff ..).2 (.inr (by omega)), rfl⟩)

/-- The k-th byte Fx55 stores is read at I + k (R174). -/
theorem read_storeAtI_regsTo (s : State) {x k : Reg} (hk : k ≤ x) : (s.storeAtI (s.regsTo x)).read (s.ea k) = s.reg k := by
  have hlen : k.val < (s.regsTo x).length := by
    rw [length_regsTo]
    exact Nat.lt_succ_of_le hk
  rw [State.storeAtI, State.ea, Memory.read_writeBytes_inside _ _ _ _ hlen, getElem_regsTo]

/-- A core that can run, with PC an even address of memory, runs the instruction it fetches (R110, R116). -/
theorem cycle_of_decode {s : State} {i : Instr} (hrun : s.run.terminal = false) (hcancel : s.cancel = false)
    (hpc : s.pc.toNat < 0x1000) (heven : s.pc.toNat % 2 = 0) (hdec : decode s.fetchBytes = .ok (i, [])) : cycle s = exec i s := by
  have hpc' : ¬ Config.memSize ≤ s.pc.toNat := Nat.not_le.2 hpc
  have hodd := getLsbD_zero_of_even heven
  simp only [cycle, hrun, hcancel, hpc', hodd, State.runAtPC, hdec, Bool.false_eq_true, if_false]

/-- Settles O38: the two bytes at PC are those stored there, and what a cycle does with them is `cycle_of_decode`. -/
theorem storedBytesAreFetched : Obligations.StoredBytesAreFetched := by
  intro s x hx
  refine ⟨_, exec_ldMemVx_inBounds hx, fun u k l hmem hl hlx hpc => ?_⟩
  have hlx' : l.val ≤ x.val := hlx
  have hkx : k.val ≤ x.val := by omega
  have hnext : u.pc.toNat + 1 = s.ea l := by
    rw [hpc, State.ea, State.ea, hl, Nat.add_assoc]
  have hk : u.mem.read u.pc.toNat = s.reg k := by
    rw [hmem, hpc]
    exact read_storeAtI_regsTo s hkx
  have hl' : u.mem.read (u.pc.toNat + 1) = s.reg l := by
    rw [hmem, hnext]
    exact read_storeAtI_regsTo s hlx
  have hbytes : u.fetchBytes = [s.reg k, s.reg l] := by
    rw [fetchBytes_eq, State.byteAt, State.byteAt, hk, hl']
  refine ⟨hbytes, ?_, fun i hdec hturn hrun hcancel heven => ?_⟩
  · rw [State.fetchWord, hk, hl', toNat_append_bytes]
  · have hterm : u.run.terminal = false := by
      rcases hrun with hrun | hrun <;> rw [hrun] <;> rfl
    have hlt : u.pc.toNat < 0x1000 := by
      rw [hpc, State.ea]
      omega
    rw [step_cpu hturn]
    exact cycle_of_decode hterm hcancel hlt heven (hbytes ▸ hdec)

end Sys2Proof.Machine
end

section
/-! PROOFS. Dispatch and the encoder invert each other on the nibbles of a word, format by format (R82 to R85); from it, that decode and
encode do on bytes (O2, O3). -/

namespace Sys2Proof

/-! ### From an instruction to its nibbles and back -/

theorem sys_wf_iff {a : Addr} : (Instr.sys a).wf = true ↔ a ≠ 0x0E0 ∧ a ≠ 0x0EE := by
  rw [Instr.wf, Bool.and_eq_true, bne_iff_ne, bne_iff_ne]

/-- The one format where well-formedness matters is that of 0nnn, which yields to the fixed words (R84). -/
theorem dispatch_nibbles {i : Instr} (hwf : i.wf = true) : dispatch i.nibbles = some i := by
  cases i with
  | cls | ret => rfl
  | sys nnn =>
    obtain ⟨h0, hE⟩ := sys_wf_iff.1 hwf
    have hgroup : dispatch (fmtNNN 0x0 nnn) = some (dispatch0 (fmtNNN 0x0 nnn)) := rfl
    rw [Instr.nibbles, hgroup, dispatch0, fmtNNN_nnn, if_neg h0, if_neg hE]
  | jp | call | ldI | jpV0 | seImm | sneImm | ldImm | addImm | rnd => simp [Instr.nibbles, dispatch]
  | seReg | sneReg | ldReg | orReg | andReg | xorReg | addReg | sub | shr | subn | shl | drw => rfl
  | skp | sknp => simp [Instr.nibbles, dispatch, dispatchE]
  | ldVxDT | ldVxK | ldDTVx | ldSTVx | addIVx | ldFVx | ldBVx | ldMemVx | ldVxMem => simp [Instr.nibbles, dispatch, dispatchF]

/-! ### From the nibbles to an instruction and back

The digits a group is chosen by are known as numbers, since dispatch matches on them so. -/

theorem fmtNNN_of_o1 {n : Nibbles} {o : Nibble} (h : n.o1.toNat = o.toNat) : fmtNNN o n.nnn = n := by
  rw [← BitVec.eq_of_toNat_eq h, fmtNNN_of]

theorem fmtXKK_of_o1_kk {n : Nibbles} {o : Nibble} {kk : Byte} (h : n.o1.toNat = o.toNat) (hkk : n.kk.toNat = kk.toNat) :
    fmtXKK o n.x kk = n := by
  rw [← BitVec.eq_of_toNat_eq h, ← BitVec.eq_of_toNat_eq hkk, fmtXKK_of]

theorem fmtXYN_of_o1_o4 {n : Nibbles} {o o4 : Nibble} (h : n.o1.toNat = o.toNat) (h4 : n.o4.toNat = o4.toNat) :
    fmtXYN o n.x n.y o4 = n := by
  rw [← BitVec.eq_of_toNat_eq h, ← BitVec.eq_of_toNat_eq h4, fmtXYN_of]

theorem nibbles_of_dispatch0 {n : Nibbles} (h1 : n.o1.toNat = 0x0) :
    (dispatch0 n).wf = true ∧ (dispatch0 n).nibbles = n := by
  have hn : fmtNNN 0x0 n.nnn = n := fmtNNN_of_o1 h1
  unfold dispatch0
  split
  next h =>
    rw [h] at hn
    exact ⟨rfl, hn⟩
  next h0 =>
    split
    next h =>
      rw [h] at hn
      exact ⟨rfl, hn⟩
    next hE => exact ⟨sys_wf_iff.2 ⟨h0, hE⟩, hn⟩

theorem nibbles_of_dispatch8 {n : Nibbles} {i : Instr} (h1 : n.o1.toNat = 0x8) (h : dispatch8 n = some i) :
    i.wf = true ∧ i.nibbles = n := by
  unfold dispatch8 at h
  split at h
  case h_10 => cases h
  all_goals
    cases h
    exact ⟨rfl, fmtXYN_of_o1_o4 h1 ‹_›⟩

theorem nibbles_of_dispatchE {n : Nibbles} {i : Instr} (h1 : n.o1.toNat = 0xE) (h : dispatchE n = some i) :
    i.wf = true ∧ i.nibbles = n := by
  unfold dispatchE at h
  split at h
  case h_3 => cases h
  all_goals
    cases h
    exact ⟨rfl, fmtXKK_of_o1_kk h1 ‹_›⟩

theorem nibbles_of_dispatchF {n : Nibbles} {i : Instr} (h1 : n.o1.toNat = 0xF) (h : dispatchF n = some i) :
    i.wf = true ∧ i.nibbles = n := by
  unfold dispatchF at h
  split at h
  case h_10 => cases h
  all_goals
    cases h
    exact ⟨rfl, fmtXKK_of_o1_kk h1 ‹_›⟩

/-- What dispatch answers is well formed and has the nibbles it was read from, group by group (R82, R85). -/
theorem nibbles_of_dispatch {n : Nibbles} {i : Instr} (h : dispatch n = some i) : i.wf = true ∧ i.nibbles = n := by
  have hlt := n.o1.isLt
  unfold dispatch at h
  split at h
  case h_1 h1 =>
    cases h
    exact nibbles_of_dispatch0 h1
  case h_9 h1 => exact nibbles_of_dispatch8 h1 h
  case h_15 h1 => exact nibbles_of_dispatchE h1 h
  case h_16 =>
    have h1 : n.o1.toNat = 0xF := by grind
    exact nibbles_of_dispatchF h1 h
  case h_2 | h_3 | h_11 | h_12 =>
    cases h
    exact ⟨rfl, fmtNNN_of_o1 ‹_›⟩
  case h_4 | h_5 | h_7 | h_8 | h_13 =>
    cases h
    exact ⟨rfl, fmtXKK_of_o1_kk ‹_› rfl⟩
  case h_6 | h_10 =>
    split at h <;> cases h
    next h4 => exact ⟨rfl, fmtXYN_of_o1_o4 ‹_› (congrArg _ h4)⟩
  case h_14 =>
    cases h
    exact ⟨rfl, fmtXYN_of_o1_o4 ‹_› rfl⟩

/-! ### Bytes -/

theorem decode_eq_ok_iff {bytes rest : List Byte} {i : Instr} :
    decode bytes = .ok (i, rest) ↔ ∃ b0 b1, bytes = b0 :: b1 :: rest ∧ dispatch (.ofBytes b0 b1) = some i := by
  match bytes with
  | [] | [_] => simp [decode]
  | b0 :: b1 :: bs =>
    cases h : dispatch (.ofBytes b0 b1) with
    | none => simp [decode, h]
    | some j => simp [decode, h, and_comm]

/-- Settles O2: the two bytes split into the instruction's own nibbles, and these dispatch to it. -/
theorem decodeInvertsEncode : Obligations.DecodeInvertsEncode := by
  intro i rest hwf
  refine decode_eq_ok_iff.2 ⟨i.nibbles.byte0, i.nibbles.byte1, rfl, ?_⟩
  rw [ofBytes_bytes]
  exact dispatch_nibbles hwf

/-- Settles O3: the instruction has the nibbles of the two bytes, and these recombine to the bytes. -/
theorem encodeInvertsDecode : Obligations.EncodeInvertsDecode := by
  intro bytes rest i h
  obtain ⟨b0, b1, rfl, hi⟩ := decode_eq_ok_iff.1 h
  obtain ⟨hwf, hn⟩ := nibbles_of_dispatch hi
  refine ⟨hwf, ?_⟩
  rw [encodeBytes, hn, byte0_ofBytes, byte1_ofBytes]
  rfl

end Sys2Proof
end

section
/-! PROOFS. The digits of a word as numbers (R81, R83), and the nibbles that dispatch to nothing (R87): the unassigned words (O5), the
words written out (O1), the nibbles and operands (O6). -/

namespace Sys2Proof

theorem toNat_hiNibble (b : Byte) : (b.extractLsb' 4 4).toNat = b.toNat / 16 := by
  rw [BitVec.extractLsb'_toNat, Nat.shiftRight_eq_div_pow]
  omega

theorem toNat_loNibble (b : Byte) : (b.extractLsb' 0 4).toNat = b.toNat % 16 := by
  rw [BitVec.extractLsb'_toNat, Nat.shiftRight_zero]

theorem toNat_kk (n : Nibbles) : n.kk.toNat = n.o3.toNat * 16 + n.o4.toNat := toNat_append_nibbles _ _

/-- The digits of a word that dispatch reads, as R87 writes them. -/
theorem word_digits (n : Nibbles) :
    n.word.toNat / 4096 = n.o1.toNat ∧ n.word.toNat % 256 = n.kk.toNat ∧ n.word.toNat % 16 = n.o4.toNat := by
  have h2 := n.o2.isLt
  have h3 := n.o3.isLt
  have h4 := n.o4.isLt
  rw [toNat_word, toNat_kk]
  omega

theorem dispatch8_eq_none_iff (n : Nibbles) :
    dispatch8 n = none ↔ n.o4.toNat ∈ [0x8, 0x9, 0xA, 0xB, 0xC, 0xD, 0xF] := by
  have hlt := n.o4.isLt
  unfold dispatch8
  split
  case h_10 =>
    simp only [List.mem_cons, List.not_mem_nil, true_iff]
    grind
  all_goals simp [*]

theorem dispatchE_eq_none_iff (n : Nibbles) : dispatchE n = none ↔ n.kk.toNat ∉ [0x9E, 0xA1] := by
  unfold dispatchE
  split <;> simp_all

theorem dispatchF_eq_none_iff (n : Nibbles) :
    dispatchF n = none ↔ n.kk.toNat ∉ [0x07, 0x0A, 0x15, 0x18, 0x1E, 0x29, 0x33, 0x55, 0x65] := by
  unfold dispatchF
  split <;> simp_all

/-- Dispatch gives none only in the groups 5, 8, 9, E and F (R87). -/
theorem dispatch_eq_none_iff (n : Nibbles) :
    dispatch n = none ↔
      (n.o1.toNat = 0x5 ∧ n.o4.toNat ≠ 0) ∨
      (n.o1.toNat = 0x9 ∧ n.o4.toNat ≠ 0) ∨
      (n.o1.toNat = 0x8 ∧ n.o4.toNat ∈ [0x8, 0x9, 0xA, 0xB, 0xC, 0xD, 0xF]) ∨
      (n.o1.toNat = 0xE ∧ n.kk.toNat ∉ [0x9E, 0xA1]) ∨
      (n.o1.toNat = 0xF ∧ n.kk.toNat ∉ [0x07, 0x0A, 0x15, 0x18, 0x1E, 0x29, 0x33, 0x55, 0x65]) := by
  have hlt := n.o1.isLt
  rw [← dispatch8_eq_none_iff, ← dispatchE_eq_none_iff, ← dispatchF_eq_none_iff]
  unfold dispatch
  split
  case h_16 =>
    have h1 : n.o1.toNat = 0xF := by grind
    simp [h1]
  all_goals simp [*, BitVec.toNat_eq]

/-- Settles O5: the five sets of R87 are the nibbles that dispatch to nothing, written with the digits of the word. -/
theorem unassignedWordsExactly : Obligations.UnassignedWordsExactly := by
  intro w
  obtain ⟨n, rfl⟩ := exists_nibbles w
  obtain ⟨h1, hkk, h4⟩ := word_digits n
  rw [decodeWord_word, h1, hkk, h4]
  exact dispatch_eq_none_iff n

/-- Settles O1, by decoding the twenty-one words. -/
theorem decodeOfWrittenOutWords : Obligations.DecodeOfWrittenOutWords := by
  unfold Obligations.DecodeOfWrittenOutWords
  decide

/-- Settles O6: the halves of the bytes, the value of the word, and the operands as numbers. -/
theorem nibblesAndOperands : Obligations.NibblesAndOperands := by
  refine ⟨fun b0 b1 => ?_, fun n => ?_⟩
  · have hword := toNat_word (.ofBytes b0 b1)
    rw [word_ofBytes, toNat_append_bytes] at hword
    exact ⟨toNat_hiNibble b0, toNat_loNibble b0, toNat_hiNibble b1, toNat_loNibble b1, hword.symm,
      byte0_ofBytes b0 b1, byte1_ofBytes b0 b1⟩
  · have hdrw (h1 : n.o1 = 0xD) : dispatch n = some (.drw n.x n.y n.o4) := by
      simp [dispatch, h1]
    exact ⟨toNat_nnn n.o2 n.o3 n.o4, toNat_kk n, rfl, rfl, Machine.toNat_addrOperand n.nnn, hdrw⟩

end Sys2Proof
end

section
/-! PROOFS. The opcode map read by mask and match (R84 to R86): which rows overlap, that a row's words are assigned, and that the first
row that fits is the one dispatch takes (O4). -/

namespace Sys2Proof

/-- Both sides are the word under both masks. -/
theorem values_agree_of_fits {r q : Row} {w : Word} (hr : r.fits w = true) (hq : q.fits w = true) :
    r.value &&& q.mask = q.value &&& r.mask := by
  rw [← beq_iff_eq.1 hr, ← beq_iff_eq.1 hq, BitVec.and_assoc, BitVec.and_assoc, BitVec.and_comm q.mask]

/-- The rows alone tell which of them can overlap: every pair of rows is compared. -/
theorem rows_of_values_agree : ∀ r ∈ opcodeRows, ∀ q ∈ opcodeRows,
    r.number < q.number → r.value &&& q.mask = q.value &&& r.mask →
    (r = ⟨1, 0xFFFF, 0x00E0⟩ ∨ r = ⟨2, 0xFFFF, 0x00EE⟩) ∧ q.number = 3 := by
  decide

theorem eq_value_of_fits {k : Nat} {v w : Word} (h : Row.fits ⟨k, 0xFFFF, v⟩ w = true) : w = v := by
  have hall : w &&& BitVec.allOnes 16 = v := beq_iff_eq.1 h
  rwa [BitVec.and_allOnes] at hall

/-- Only the two fixed words fit two rows (R84). -/
theorem rows_overlap {r q : Row} {w : Word} (hr : r ∈ opcodeRows) (hq : q ∈ opcodeRows) (hrw : r.fits w = true)
    (hqw : q.fits w = true) (hlt : r.number < q.number) :
    (w = 0x00E0 ∧ r.number = 1 ∧ q.number = 3) ∨ (w = 0x00EE ∧ r.number = 2 ∧ q.number = 3) := by
  obtain ⟨rfl | rfl, hq3⟩ := rows_of_values_agree r hr q hq hlt (values_agree_of_fits hrw hqw)
  · exact .inl ⟨eq_value_of_fits hrw, rfl, hq3⟩
  · exact .inr ⟨eq_value_of_fits hrw, rfl, hq3⟩

theorem number_le_of_fits {r q : Row} {w : Word} (hE0 : w ≠ 0x00E0) (hEE : w ≠ 0x00EE) (hr : r ∈ opcodeRows)
    (hq : q ∈ opcodeRows) (hrw : r.fits w = true) (hqw : q.fits w = true) : q.number ≤ r.number := by
  refine Nat.le_of_not_lt fun hlt => ?_
  rcases rows_overlap hr hq hrw hqw hlt with ⟨hw, _⟩ | ⟨hw, _⟩
  · exact hE0 hw
  · exact hEE hw

/-- A word that fits a row is in none of the sets of R87: row by row, the digits the row fixes say so. -/
theorem dispatch_ne_none_of_fits {n : Nibbles} {r : Row} (hr : r ∈ opcodeRows) (h : r.fits n.word = true) :
    dispatch n ≠ none := by
  rw [Ne, dispatch_eq_none_iff, toNat_kk]
  rw [fits_iff] at h
  fin_cases hr
  all_goals
    simp [Laws.OnItsRow.and_fifteen] at h
    simp [h]

open Laws.OnItsRow in
/-- The law of `Laws.OnItsRow`, for every instruction. -/
theorem onItsRow : ∀ i : Instr, Statement i
  | .cls => cls | .ret => ret | .sys a => sys a | .jp a => jp a | .call a => call a
  | .seImm x b => seImm x b | .sneImm x b => sneImm x b | .seReg x y => seReg x y
  | .ldImm x b => ldImm x b | .addImm x b => addImm x b
  | .ldReg x y => ldReg x y | .orReg x y => orReg x y | .andReg x y => andReg x y | .xorReg x y => xorReg x y
  | .addReg x y => addReg x y | .sub x y => sub x y | .shr x y => shr x y | .subn x y => subn x y | .shl x y => shl x y
  | .sneReg x y => sneReg x y | .ldI a => ldI a | .jpV0 a => jpV0 a | .rnd x b => rnd x b | .drw x y n => drw x y n
  | .skp x => skp x | .sknp x => sknp x | .ldVxDT x => ldVxDT x | .ldVxK x => ldVxK x | .ldDTVx x => ldDTVx x
  | .ldSTVx x => ldSTVx x | .addIVx x => addIVx x | .ldFVx x => ldFVx x | .ldBVx x => ldBVx x
  | .ldMemVx x => ldMemVx x | .ldVxMem x => ldVxMem x

/-- Apart from the two fixed words, which are evaluated, at most one row fits, so that the instruction's own row is the first. -/
theorem number_of_first_fit (n : Nibbles) :
    (opcodeRows.find? (fun r => r.fits n.word)).map Row.number = (dispatch n).map Instr.row := by
  by_cases hE0 : n.word = 0x00E0
  · rw [← decodeWord_word, hE0]
    decide
  by_cases hEE : n.word = 0x00EE
  · rw [← decodeWord_word, hEE]
    decide
  cases hi : dispatch n with
  | none =>
    have hnone : opcodeRows.find? (fun r => r.fits n.word) = none :=
      List.find?_eq_none.2 fun r hr h => dispatch_ne_none_of_fits hr h hi
    rw [hnone]
    rfl
  | some i =>
    obtain ⟨-, rfl⟩ := nibbles_of_dispatch hi
    obtain ⟨q, hq, hrow, hqw⟩ := onItsRow i
    rw [encode] at hqw
    obtain ⟨r, hfind⟩ : ∃ r, opcodeRows.find? (fun r => r.fits i.nibbles.word) = some r :=
      Option.isSome_iff_exists.1 (List.find?_isSome.2 ⟨q, hq, hqw⟩)
    have hr := List.mem_of_find?_eq_some hfind
    have hrw := List.find?_some hfind
    have hnumber : r.number = q.number :=
      Nat.le_antisymm (number_le_of_fits hE0 hEE hq hr hqw hrw) (number_le_of_fits hE0 hEE hr hq hrw hqw)
    rw [hfind, Option.map_some, Option.map_some, hnumber, hrow]

/-- Settles O4, from `number_of_first_fit` and `rows_overlap`; the three near misses are evaluated. -/
theorem dispatchFollowsOpcodeMap : Obligations.DispatchFollowsOpcodeMap := by
  refine ⟨fun w => ?_, ⟨by decide, by decide, by decide⟩, fun r hr q hq w hrw hqw hlt => rows_overlap hr hq hrw hqw hlt⟩
  obtain ⟨n, rfl⟩ := exists_nibbles w
  rw [decodeWord_word]
  exact number_of_first_fit n

end Sys2Proof
end

section
/-! PROOFS. One cycle by its stop conditions, an equation for each (O8, O7), and what the steps of a core that has ended leave as it was
(O9). -/

namespace Sys2Proof.Machine

theorem terminal_eq_true_iff (r : RunState) : r.terminal = true ↔ r = .haltedEnd ∨ r = .cancelled ∨ r = .faulted := by
  cases r <;> decide

theorem terminal_eq_false_iff (r : RunState) : r.terminal = false ↔ r = .running ∨ r = .waitKey := by
  cases r <;> decide

theorem getLsbD_zero_of_odd {w : Word} (h : w.toNat % 2 = 1) : w.getLsbD 0 = true := by
  simpa [BitVec.getLsbD, Nat.testBit_zero] using h

/-! ### The stop conditions of a cycle (R118) -/

section
variable {s : State}

/-- A terminal core takes no step (R111). -/
theorem cycle_of_terminal (hrun : s.run.terminal = true) : cycle s = .next s := if_pos hrun

/-- `CANCEL` is sampled before anything else (R112). -/
theorem cycle_of_cancel (hrun : s.run.terminal = false) (hcancel : s.cancel = true) : cycle s = .next (s.setRun .cancelled) := by
  simp only [cycle, hrun, hcancel, Bool.false_eq_true, if_false, if_true]

/-- A PC beyond memory is the natural end (R114). -/
theorem cycle_of_end (hrun : s.run.terminal = false) (hcancel : s.cancel = false) (hpc : 0x1000 ≤ s.pc.toNat) :
    cycle s = .next (s.setRun .haltedEnd) := by
  have hpc' : Config.memSize ≤ s.pc.toNat := hpc
  simp only [cycle, hrun, hcancel, hpc', Bool.false_eq_true, if_false, if_true]

/-- An odd PC inside memory (R115). -/
theorem cycle_of_odd (hrun : s.run.terminal = false) (hcancel : s.cancel = false) (hpc : s.pc.toNat < 0x1000)
    (hodd : s.pc.toNat % 2 = 1) : cycle s = .next (s.raise .misalignedFetch s.pc) := by
  have hpc' : ¬ Config.memSize ≤ s.pc.toNat := Nat.not_le.2 hpc
  simp only [cycle, hrun, hcancel, hpc', getLsbD_zero_of_odd hodd, Bool.false_eq_true, if_false, if_true]

/-- A word at PC that does not decode (R117). -/
theorem cycle_of_unassigned {e : DecodeError} (hrun : s.run.terminal = false) (hcancel : s.cancel = false)
    (hpc : s.pc.toNat < 0x1000) (heven : s.pc.toNat % 2 = 0) (hdec : decode s.fetchBytes = .error e) :
    cycle s = .next (s.raise .illegalInstruction s.fetchWord) := by
  have hpc' : ¬ Config.memSize ≤ s.pc.toNat := Nat.not_le.2 hpc
  simp only [cycle, hrun, hcancel, hpc', getLsbD_zero_of_even heven, State.runAtPC, hdec, Bool.false_eq_true, if_false]

end

theorem frame_setRun (s : State) (r : RunState) : Frame noReg noByte [.runState] s (s.setRun r) :=
  frame_of_only_part rfl rfl fun p hp => (Part.same.refl p s).setRun r hp

/-- Settles O8: the equation of each stop condition, with what `setRun` and `raise` leave. -/
theorem cycleStopsInOrder : Obligations.CycleStopsInOrder := by
  intro s hn
  rw [step_cpu hn]
  refine ⟨fun hrun => cycle_of_terminal (s := s.turnTaken) ((terminal_eq_true_iff _).2 hrun), fun hrun => ?_⟩
  have hrun' : s.turnTaken.run.terminal = false := (terminal_eq_false_iff _).2 hrun
  refine ⟨fun hc => ?_, fun hc hpc => ?_, fun hc hpc hodd => ?_, fun hc hpc heven hdec => ?_⟩
  · exact ⟨_, cycle_of_cancel hrun' hc, rfl, rfl, frame_setRun _ _⟩
  · exact ⟨_, cycle_of_end hrun' hc hpc, rfl, rfl, frame_setRun _ _⟩
  · exact ⟨_, cycle_of_odd hrun' hc hpc hodd, raised_raise _ _ _⟩
  · rw [← toNat_append_bytes]
    exact ⟨_, cycle_of_unassigned hrun' hc hpc heven hdec, raised_raise _ _ _⟩

/-- Settles O7: the CPU's turn is a cycle, and no stop condition holds. -/
theorem stepRunsTheDecodedInstruction : Obligations.StepRunsTheDecodedInstruction := by
  intro s i hn hrun hcancel hpc heven hdec
  rw [step_cpu hn]
  exact cycle_of_decode (s := s.turnTaken) ((terminal_eq_false_iff _).2 hrun) hcancel hpc heven hdec

/-! ### A core that has ended (R111, R212, R236) -/

/-- A step that is no boot leaves a terminal core, and takes no free value. -/
theorem step_keeps_terminal_core {s t : State} (hrun : s.run.terminal = true) (hinit : ∀ f src, s.nextTurn ≠ .init f src)
    (h : step s = .next t) : SameCore s t ∧ t.draws = s.draws := by
  rcases step_cases h with ⟨_, hc⟩ | ⟨_, rfl⟩ | ⟨_, rfl⟩ | ⟨_, _, rfl⟩ | ⟨_, _, rfl⟩ | ⟨_, _, rfl⟩ | ⟨_, rfl⟩ | ⟨f, rom, hn, _⟩
  case inl =>
    cases (cycle_of_terminal (s := s.turnTaken) hrun).symm.trans hc
    exact ⟨⟨rfl, rfl, rfl, rfl, rfl, rfl, rfl, rfl⟩, rfl⟩
  on_goal 7 => exact absurd hn (hinit f _)
  all_goals exact ⟨⟨rfl, rfl, rfl, rfl, rfl, rfl, rfl, rfl⟩, rfl⟩

/-- The same core, as a frame: only the timers, the outputs, the inputs and the schedule may differ. -/
theorem SameCore.frame {s t : State} (h : SameCore s t) (hdraws : t.draws = s.draws) :
    Frame noReg noByte [.delayTimer, .soundTimer, .buzzer, .events, .display, .keys, .random, .cancel, .agenda] s t := by
  refine ⟨fun r _ => by rw [State.reg, State.reg, h.v], fun a _ => by rw [State.byteAt, State.byteAt, h.mem], fun p hp => ?_⟩
  cases p
  case index => exact h.i
  case callStack => exact ⟨h.sp, h.stack⟩
  case runState => exact h.run
  case faultRecord => exact h.fault
  case draws => exact hdraws
  all_goals exact absurd hp (by decide)

/-- Settles O9: whichever agent steps, the core stays the same, and that is the frame. -/
theorem terminalRunIsForever : Obligations.TerminalRunIsForever := by
  intro s t hrun hinit h
  obtain ⟨hcore, hdraws⟩ := step_keeps_terminal_core ((terminal_eq_true_iff _).2 hrun) hinit h
  exact ⟨hcore.run, hcore.pc, hcore.frame hdraws⟩

end Sys2Proof.Machine
end

section
/-! PROOFS. A tick of the delay timer before or after an instruction (O53): an instruction other than Fx07 and Fx15 reads and writes
nothing of DT, so that it takes the same branch, and ends in the same state, ticked. -/

namespace Sys2Proof.Machine

section
variable {s e t : State}

theorem checkRange_dtTick {len : Nat} (h : s.checkRange len e = .next t) : s.dtTick.checkRange len e.dtTick = .next t.dtTick := by
  rcases (checkRange_cases ..).1 h with ⟨hok, rfl⟩ | ⟨hbad, rfl⟩
  · exact (checkRange_cases ..).2 (.inl ⟨hok, rfl⟩)
  · exact (checkRange_cases ..).2 (.inr ⟨hbad, rfl⟩)

theorem checkKey_dtTick {x : Reg} (h : s.checkKey x e = .next t) : s.dtTick.checkKey x e.dtTick = .next t.dtTick := by
  rcases (checkKey_cases ..).1 h with ⟨hok, rfl⟩ | ⟨hbad, rfl⟩
  · exact (checkKey_cases ..).2 (.inl ⟨hok, rfl⟩)
  · exact (checkKey_cases ..).2 (.inr ⟨hbad, rfl⟩)

theorem execRet_dtTick (h : execRet s = .next t) : execRet s.dtTick = .next t.dtTick := by
  unfold execRet at h
  split_ifs at h with hempty hlt
  · cases h
    exact if_pos hempty
  · cases h
    exact (if_neg hempty).trans (dif_pos hlt)

theorem execCall_dtTick {nnn : Addr} (h : execCall nnn s = .next t) : execCall nnn s.dtTick = .next t.dtTick := by
  unfold execCall at h
  split_ifs at h with hfull hlt
  · cases h
    exact if_pos hfull
  · cases h
    exact (if_neg hfull).trans (dif_pos hlt)

theorem execLdVxK_dtTick {x : Reg} (h : execLdVxK x s = .next t) : execLdVxK x s.dtTick = .next t.dtTick := by
  unfold execLdVxK at h ⊢
  rw [dtTick_keys]
  split_ifs at h ⊢
  · cases h
    rfl
  · cases h
    rfl

/-- Ticking DT commutes with every instruction but the two that operate on it (R119, R234). -/
theorem exec_dtTick {i : Instr} (hi : ∀ x, i ≠ .ldVxDT x ∧ i ≠ .ldDTVx x) (h : exec i s = .next t) :
    exec i s.dtTick = .next t.dtTick := by
  cases i with
  | ldVxDT x => exact absurd rfl (hi x).1
  | ldDTVx x => exact absurd rfl (hi x).2
  | ret => exact execRet_dtTick h
  | call => exact execCall_dtTick h
  | ldVxK => exact execLdVxK_dtTick h
  | skp | sknp => exact checkKey_dtTick h
  | drw | ldBVx | ldMemVx | ldVxMem => exact checkRange_dtTick h
  | cls | sys | jp | seImm | sneImm | seReg | ldImm | addImm | ldReg | orReg | andReg | xorReg | addReg | sub | shr | subn | shl
  | sneReg | ldI | jpV0 | rnd | ldSTVx | addIVx | ldFVx =>
    cases h
    rfl

end

/-- Settles O53, by `exec_dtTick`; the two ticks write different fields. -/
theorem ticksCommute : Obligations.TicksCommute :=
  ⟨fun _ _ _ => exec_dtTick, fun _ => rfl⟩

end Sys2Proof.Machine
end

section
/-! PROOFS. Jumps, calls and returns (41_flow.md): what each answers and leaves (O20 to O23); a list of calls followed by as many returns
comes back to where it started (O24). -/

namespace Sys2Proof.Machine

/-! ### Frames -/

/-- A part that two steps in a row leave as it was. -/
theorem Part.same.trans {p : Part} {s t u : State} (h : p.same s t) (h' : p.same t u) : p.same s u := by
  cases p
  case callStack | agenda => exact ⟨h'.1.trans h.1, h'.2.trans h.2⟩
  all_goals exact Eq.trans h' h

theorem Frame.trans {regs : Reg → Prop} {bytes : Nat → Prop} {parts : List Part} {s t u : State}
    (h : Frame regs bytes parts s t) (h' : Frame regs bytes parts t u) : Frame regs bytes parts s u := by
  obtain ⟨hreg, hbyte, hpart⟩ := h
  obtain ⟨hreg', hbyte', hpart'⟩ := h'
  exact ⟨fun r hr => (hreg' r hr).trans (hreg r hr), fun a ha => (hbyte' a ha).trans (hbyte a ha),
    fun p hp => (hpart p hp).trans (hpart' p hp)⟩

theorem frame_refl (regs : Reg → Prop) (bytes : Nat → Prop) (parts : List Part) (s : State) : Frame regs bytes parts s s :=
  ⟨fun _ _ => rfl, fun _ _ => rfl, fun p _ => .refl p s⟩

theorem frame_jump (s : State) (w : Word) : Frame noReg noByte [] s (s.jump w) :=
  ⟨fun _ _ => rfl, fun _ _ => rfl, fun p _ => (Part.same.refl p s).jump w⟩

theorem frame_push_jump (s : State) (ret target : Word) (hfree : s.sp.toNat < 16) :
    Frame noReg noByte [.callStack] s ((s.push ret hfree).jump target) :=
  frame_of_only_part rfl rfl fun p hp => ((Part.same.refl p s).push ret hfree hp).jump target

theorem frame_jump_pop (s : State) (w : Word) : Frame noReg noByte [.callStack] s (s.jump w).pop :=
  frame_of_only_part rfl rfl fun p hp => ((Part.same.refl p s).jump w).pop hp

/-! ### Jumps -/

/-- The target of Bnnn as a number: two operands below 0x1000 and 0x100 do not wrap (R134). -/
theorem toNat_jpV0_target (nnn : Addr) (b : Byte) : (addrOperand nnn + zext16 b).toNat = nnn.toNat + b.toNat := by
  have hn := nnn.isLt
  have hb := b.isLt
  rw [BitVec.toNat_add, toNat_addrOperand, toNat_zext16]
  omega

/-- Settles O20: the words decode as the encoder writes them, and each instruction is a jump to its operand. -/
theorem jumpsGoToTheirAddress : Obligations.JumpsGoToTheirAddress := by
  refine ⟨fun nnn h0 hE => ?_, fun nnn => ?_, fun s nnn => ?_⟩
  · rw [decodeWord_wordNNN]
    exact dispatch_nibbles (sys_wf_iff.2 ⟨h0, hE⟩)
  · rw [decodeWord_wordNNN]
    exact dispatch_nibbles (i := .jp nnn) rfl
  · exact ⟨⟨_, rfl, toNat_addrOperand nnn, frame_jump s _⟩, ⟨_, rfl, toNat_addrOperand nnn, frame_jump s _⟩⟩

/-- Settles O21: the jump goes to the unwrapped sum. -/
theorem jumpV0AddsWithoutMask : Obligations.JumpV0AddsWithoutMask :=
  fun s nnn => ⟨_, rfl, toNat_jpV0_target nnn (s.reg 0), frame_jump s _⟩

/-! ### Calls and returns -/

/-- 2nnn where an entry is free (R133). -/
theorem exec_call_of_free {s : State} (nnn : Addr) (hfree : s.sp.toNat < 16) :
    exec (.call nnn) s = .next ((s.push (s.pc + 2) hfree).jump (addrOperand nnn)) := by
  rcases execCall_cases nnn s with ⟨h, _⟩ | ⟨_, h⟩ | ⟨h, _⟩
  · omega
  · exact h
  · omega

/-- 00EE where entry `k` is the top one (R130). -/
theorem exec_ret_of_top {s : State} {k : Nat} (hk : k < 16) (hsp : s.sp.toNat = k + 1) :
    exec .ret s = .next (s.jump s.stack[k]).pop := by
  obtain rfl : s.sp.toNat - 1 = k := by omega
  rcases execRet_cases s with ⟨h0, _⟩ | ⟨_, _, h⟩ | ⟨h, _⟩
  · simp [h0] at hsp
  · exact h
  · omega

/-- Pushing onto a free entry counts one up, without wrap. -/
theorem toNat_push_sp (s : State) (w : Word) (hfree : s.sp.toNat < 16) : (s.push w hfree).sp.toNat = s.sp.toNat + 1 := by
  rw [push_sp]
  bv_omega

/-- Settles O22, from `exec_call_of_free`. -/
theorem callPushesReturnAddress : Obligations.CallPushesReturnAddress := by
  intro s nnn hfree
  refine ⟨_, exec_call_of_free nnn hfree, toNat_addrOperand nnn, toNat_push_sp s (s.pc + 2) hfree, ?_, fun k hk hne => ?_,
    frame_push_jump s _ _ hfree⟩
  · exact Vector.getElem_set_self hfree
  · exact Vector.getElem_set_ne hfree hk hne.symm

/-- Settles O23, from `exec_ret_of_top`. -/
theorem returnPopsTheTop : Obligations.ReturnPopsTheTop := by
  intro s ⟨hpos, hle⟩
  refine ⟨_, exec_ret_of_top (k := s.sp.toNat - 1) (by omega) (by omega), rfl, ?_, rfl, frame_jump_pop s _⟩
  rw [pop_sp, jump_sp]
  bv_omega

/-! ### Nested calls -/

/-- A list runs as its first part, then its second from the state the first leaves. -/
theorem execAll_append {is js : List Instr} {s t : State} (h : execAll is s = .next t) : execAll (is ++ js) s = execAll js t := by
  induction is generalizing s with
  | nil =>
    cases h
    rfl
  | cons i is ih =>
    cases hi : exec i s with
    | next s' =>
      simp only [execAll, hi, List.cons_append] at h ⊢
      exact ih h
    | fault | refused => simp [execAll, hi] at h

theorem execAll_singleton (i : Instr) (s : State) : execAll [i] s = exec i s := by
  rw [execAll]
  cases exec i s <;> rfl

/-- The call stack is back at the depth of `s` with the entries below it kept, and only the entries above it and PC may differ. -/
structure SameDepth (s u : State) : Prop where
  sp : u.sp = s.sp
  below : ∀ k, (hk : k < 16) → k < s.sp.toNat → u.stack[k] = s.stack[k]
  frame : Frame noReg noByte [.callStack] s u

/-- 00EE with SP as a call left it and `a` in the entry the call took goes to `a`, at the depth before the call. -/
theorem exec_ret_after_push {s u : State} {a : Word} (hfree : s.sp.toNat < 16) (hsp : u.sp = s.sp + 1)
    (htop : u.stack[s.sp.toNat] = a) : exec .ret u = .next (u.jump a).pop ∧ (u.jump a).pop.sp = s.sp := by
  have hdepth : u.sp.toNat = s.sp.toNat + 1 := hsp ▸ toNat_push_sp s a hfree
  refine ⟨htop ▸ exec_ret_of_top hfree hdepth, ?_⟩
  rw [pop_sp, jump_sp, hsp]
  exact BitVec.add_sub_cancel _ _

/-- 00EE from the depth a call left undoes that call, and goes to the instruction after it. -/
theorem ret_of_sameDepth_call {s u : State} {target : Word} (hfree : s.sp.toNat < 16)
    (h : SameDepth ((s.push (s.pc + 2) hfree).jump target) u) :
    ∃ w, exec .ret u = .next w ∧ w.pc = s.pc + 2 ∧ SameDepth s w := by
  obtain ⟨hsp, hbelow, hframe⟩ := h
  have hdepth := toNat_push_sp s (s.pc + 2) hfree
  have htop : u.stack[s.sp.toNat] = s.pc + 2 :=
    (hbelow _ hfree (by rw [jump_sp]; omega)).trans (Vector.getElem_set_self hfree)
  obtain ⟨hret, hsp'⟩ := exec_ret_after_push hfree hsp htop
  refine ⟨_, hret, rfl, hsp', fun k hk hlt => ?_, ((frame_push_jump s _ _ hfree).trans hframe).trans (frame_jump_pop u _)⟩
  exact (hbelow k hk (by rw [jump_sp]; omega)).trans (Vector.getElem_set_ne hfree hk (by omega))

/-- Calls that fit in the stack, then as many returns, innermost call first. -/
theorem execAll_calls_returns (targets : List Addr) {s : State} (hfit : s.sp.toNat + targets.length ≤ 16) :
    ∃ t u, execAll (targets.map .call) s = .next t ∧ t.sp.toNat = s.sp.toNat + targets.length ∧
      execAll (List.replicate targets.length .ret) t = .next u ∧ (targets ≠ [] → u.pc = s.pc + 2) ∧ SameDepth s u := by
  induction targets generalizing s with
  | nil => exact ⟨s, s, rfl, rfl, rfl, (absurd rfl ·), rfl, fun _ _ _ => rfl, frame_refl _ _ _ s⟩
  | cons nnn targets ih =>
    rw [List.length_cons] at hfit
    have hfree : s.sp.toNat < 16 := by omega
    have hcall := exec_call_of_free nnn hfree
    have hdepth := toNat_push_sp s (s.pc + 2) hfree
    obtain ⟨t, u, hcalls, htsp, hrets, -, hu⟩ := ih (s := (s.push (s.pc + 2) hfree).jump (addrOperand nnn)) (by rw [jump_sp]; omega)
    obtain ⟨w, hret, hpc, hw⟩ := ret_of_sameDepth_call hfree hu
    refine ⟨t, w, ?_, ?_, ?_, fun _ => hpc, hw⟩
    · rw [List.map_cons, execAll, hcall]
      exact hcalls
    · rw [htsp, jump_sp, List.length_cons]
      omega
    · rw [List.length_cons, List.replicate_succ', execAll_append hrets, execAll_singleton, hret]

/-- Settles O24: the top entry is the return address for a single call, and `execAll_calls_returns` is the nest. -/
theorem callsAndReturnsRoundTrip : Obligations.CallsAndReturnsRoundTrip := by
  refine ⟨fun s nnn hfree => ⟨_, exec_call_of_free nnn hfree, fun u hsp hstack => ?_⟩, fun s targets hfit => ?_⟩
  · have htop : u.stack[s.sp.toNat] = s.pc + 2 := by
      simp only [hstack, jump_stack, push_stack, Vector.getElem_set_self]
    obtain ⟨hret, hsp'⟩ := exec_ret_after_push hfree hsp htop
    exact ⟨_, hret, rfl, hsp'⟩
  · obtain ⟨t, u, hcalls, htsp, hrets, hpc, hsp, hbelow, hframe⟩ := execAll_calls_returns targets hfit
    exact ⟨t, u, hcalls, htsp, hrets, hsp, hpc, hbelow, hframe⟩

end Sys2Proof.Machine
end

section
/-! PROOFS. The register skips (42_skip.md): one lemma says where any instruction that answers `skipIf` goes and what it leaves; the four
skips are uses of it (O25). -/

namespace Sys2Proof.Machine

/-! ### What a skip does -/

theorem frame_skipIf (s : State) (c : Bool) : Frame noReg noByte [] s (s.skipIf c) :=
  ⟨fun _ _ => rfl, fun _ _ => rfl, fun p _ => (Part.same.refl p s).skipIf c⟩

/-- The two advances of a skip that skips are one of 4. -/
theorem skipIf_pc_eq_add (s : State) (c : Bool) : (s.skipIf c).pc = s.pc + (if c then 4 else 2) := by
  cases c
  · rfl
  · exact BitVec.add_assoc s.pc 2 2

/-- An instruction that answers `skipIf` on the test of a condition skips exactly where the condition holds, and changes PC only. -/
theorem skip_of_exec {i : Instr} {s : State} {c : Bool} {p : Prop} [Decidable p] (h : exec i s = .next (s.skipIf c))
    (hc : c = true ↔ p) :
    ∃ t, exec i s = .next t ∧ t.pc = s.pc + (if p then 4 else 2) ∧ Frame noReg noByte [] s t := by
  refine ⟨_, h, ?_, frame_skipIf s c⟩
  simp only [skipIf_pc_eq_add, hc]

/-! ### Their words -/

/-- A word of group 5 or 9 whose last digit is not 0 is unassigned (R87). -/
theorem decodeWord_wordXYN_eq_none {o n : Nibble} (x y : Reg) (ho : o = 0x5 ∨ o = 0x9) (hn : n ≠ 0x0) :
    decodeWord (wordXYN o x y n) = none := by
  have h4 : n.toNat ≠ 0 := fun h => hn (BitVec.eq_of_toNat_eq h)
  rw [decodeWord_wordXYN]
  rcases ho with rfl | rfl
  · exact (dispatch_eq_none_iff _).2 (.inl ⟨rfl, h4⟩)
  · exact (dispatch_eq_none_iff _).2 (.inr (.inl ⟨rfl, h4⟩))

/-- Settles O25: the assigned words decode as the encoder writes them, and each skip tests the condition of its rule. -/
theorem registerSkips : Obligations.RegisterSkips := by
  refine ⟨fun x kk => ?_, fun x y => ?_, fun x y n hn => ?_, fun s x y kk => ?_⟩
  · rw [decodeWord_wordXKK, decodeWord_wordXKK]
    exact ⟨dispatch_nibbles (i := .seImm x kk) rfl, dispatch_nibbles (i := .sneImm x kk) rfl⟩
  · rw [decodeWord_wordXYN, decodeWord_wordXYN]
    exact ⟨dispatch_nibbles (i := .seReg x y) rfl, dispatch_nibbles (i := .sneReg x y) rfl⟩
  · exact ⟨decodeWord_wordXYN_eq_none x y (.inl rfl) hn, decodeWord_wordXYN_eq_none x y (.inr rfl) hn⟩
  · exact ⟨skip_of_exec rfl beq_iff_eq, skip_of_exec rfl bne_iff_ne, skip_of_exec rfl beq_iff_eq, skip_of_exec rfl bne_iff_ne⟩

end Sys2Proof.Machine
end

section
/-! PROOFS. Register loads and arithmetic (43_alu.md): the flags and the arithmetic of a byte as numbers, what one register write and
what a flag write followed by a register write leave; the instructions are uses of these (O26 to O31). -/

namespace Sys2Proof.Machine

/-! ### Bytes and flags as numbers -/

theorem toNat_flagByte (c : Bool) : (flagByte c).toNat = if c then 1 else 0 := by
  cases c
  · rfl
  · rfl

theorem toNat_carryFlag (a b : Byte) : (carryFlag a b).toNat = if a.toNat + b.toNat > 255 then 1 else 0 := by
  simp only [carryFlag, toNat_flagByte, decide_eq_true_eq]

theorem toNat_greaterFlag (a b : Byte) : (greaterFlag a b).toNat = if a.toNat > b.toNat then 1 else 0 := by
  simp only [greaterFlag, toNat_flagByte, decide_eq_true_eq]

theorem toNat_lowBitFlag (a : Byte) : (lowBitFlag a).toNat = a.toNat % 2 := by
  rw [lowBitFlag, BitVec.toNat_and]
  exact Nat.and_one_is_mod a.toNat

theorem toNat_highBitFlag (a : Byte) : (highBitFlag a).toNat = a.toNat / 128 := by
  have ha := a.isLt
  have hbit : (highBitFlag a).toNat = a.toNat / 128 % 2 := by
    rw [highBitFlag, BitVec.toNat_and, BitVec.toNat_ushiftRight, Nat.shiftRight_eq_div_pow]
    exact Nat.and_one_is_mod (a.toNat / 2 ^ 7)
  omega

/-- The difference modulo 256, without a negative number (R157, R159). -/
theorem toNat_sub_byte (a b : Byte) : (a - b).toNat = (256 + a.toNat - b.toNat) % 256 := by
  bv_omega

theorem toNat_shiftRight_one (a : Byte) : (a >>> 1).toNat = a.toNat / 2 := by
  rw [BitVec.toNat_ushiftRight, Nat.shiftRight_one]

theorem toNat_shiftLeft_one (a : Byte) : (a <<< 1).toNat = 2 * a.toNat % 256 := by
  rw [BitVec.toNat_shiftLeft, Nat.shiftLeft_eq, Nat.pow_one, Nat.mul_comm]

/-! ### One register written -/

theorem setReg_reg_same (s : State) (r : Reg) (b : Byte) : (s.setReg r b).reg r = b := by
  rw [setReg_reg, if_pos rfl]

theorem setReg_reg_of_ne (s : State) {r q : Reg} (b : Byte) (h : q ≠ r) : (s.setReg r b).reg q = s.reg q := by
  rw [setReg_reg, if_neg h.symm]

/-- The register an instruction writes last before it advances holds the value written. -/
theorem advance_setReg_reg_same (s : State) (x : Reg) (b : Byte) : (s.setReg x b).advance.reg x = b :=
  setReg_reg_same s x b

theorem frame_setReg {regs : Reg → Prop} (s : State) {x : Reg} (b : Byte) (hx : regs x) :
    Frame regs noByte [] s (s.setReg x b) :=
  ⟨fun _ hr => setReg_reg_of_ne s b fun h => hr (h ▸ hx), fun _ _ => rfl, fun p _ => (Part.same.refl p s).setReg x b⟩

theorem frame_advance (regs : Reg → Prop) (s : State) : Frame regs noByte [] s s.advance :=
  ⟨fun _ _ => rfl, fun _ _ => rfl, fun p _ => (Part.same.refl p s).advance⟩

theorem frame_setReg_advance (s : State) (x : Reg) (b : Byte) : Frame (· = x) noByte [] s (s.setReg x b).advance :=
  (frame_setReg (regs := (· = x)) s b rfl).trans (frame_advance _ _)

/-- Settles O26: the words decode as the encoder writes them, and each instruction is one write of its value to Vx. -/
theorem loadsAddImmediateAndLogic : Obligations.LoadsAddImmediateAndLogic := by
  refine ⟨fun x kk => ?_, fun x y => ?_, fun s x y kk => ⟨?ld, ?add, ?mov, ?or, ?and, ?xor⟩⟩
  · rw [decodeWord_wordXKK, decodeWord_wordXKK]
    exact ⟨dispatch_nibbles (i := .ldImm x kk) rfl, dispatch_nibbles (i := .addImm x kk) rfl⟩
  · simp only [decodeWord_wordXYN]
    exact ⟨dispatch_nibbles (i := .ldReg x y) rfl, dispatch_nibbles (i := .orReg x y) rfl,
      dispatch_nibbles (i := .andReg x y) rfl, dispatch_nibbles (i := .xorReg x y) rfl⟩
  case ld => exact ⟨_, rfl, advance_setReg_reg_same s x kk, rfl, frame_setReg_advance s x _⟩
  case add =>
    refine ⟨_, rfl, ?_, rfl, frame_setReg_advance s x _⟩
    rw [advance_setReg_reg_same, BitVec.toNat_add]
  case mov => exact ⟨_, rfl, advance_setReg_reg_same s x (s.reg y), rfl, frame_setReg_advance s x _⟩
  case or =>
    refine ⟨_, rfl, fun b => ?_, rfl, frame_setReg_advance s x _⟩
    rw [advance_setReg_reg_same, BitVec.getLsbD_or]
  case and =>
    refine ⟨_, rfl, fun b => ?_, rfl, frame_setReg_advance s x _⟩
    rw [advance_setReg_reg_same, BitVec.getLsbD_and]
  case xor =>
    refine ⟨_, rfl, fun b => ?_, rfl, frame_setReg_advance s x _⟩
    rw [advance_setReg_reg_same, BitVec.getLsbD_xor]

/-! ### Vx written, then the flag (R156) -/

/-- Settles O27: the sum is in Vx where the flag does not overwrite it, and the carry, written last, is in VF. -/
theorem addRegistersWithCarry : Obligations.AddRegistersWithCarry := by
  refine ⟨fun x y => ?_, fun s x y => ⟨_, rfl, fun hx => ?_, ?_, rfl, ?_⟩⟩
  · rw [decodeWord_wordXYN]
    exact dispatch_nibbles (i := .addReg x y) rfl
  · rw [advance_reg, setReg_reg_of_ne _ _ hx, setReg_reg_same, BitVec.toNat_add]
  · rw [advance_setReg_reg_same, toNat_carryFlag]
  · exact ((frame_setReg s _ (.inl rfl)).trans (frame_setReg _ _ (.inr rfl))).trans (frame_advance _ _)

/-! ### The flag written, then Vx (R157 to R160, D7) -/

section
variable {i : Instr} {s : State} {x : Reg} {f b : Byte} {m n : Nat}

/-- An instruction that writes the flag, then a register other than VF, leaves both values. -/
theorem flag_then_dest_of_exec (h : exec i s = .next ((s.setReg VF f).setReg x b).advance) (hx : x ≠ VF)
    (hb : b.toNat = m) (hf : f.toNat = n) :
    ∃ t, exec i s = .next t ∧ (t.reg x).toNat = m ∧ (t.reg VF).toNat = n ∧ t.pc = s.pc + 2 ∧
      Frame (fun r => r = x ∨ r = VF) noByte [] s t := by
  refine ⟨_, h, ?_, ?_, rfl, ?_⟩
  · rw [advance_setReg_reg_same, hb]
  · rw [reg_VF_of_flag_then_dest _ _ (beq_false_of_ne hx.symm), hf]
  · exact ((frame_setReg s _ (.inr rfl)).trans (frame_setReg _ _ (.inl rfl))).trans (frame_advance _ _)

/-- An instruction that writes the flag, then VF as its destination, leaves the destination's value there. -/
theorem flag_overwritten_of_exec (h : exec i s = .next ((s.setReg VF f).setReg VF b).advance) (hb : b.toNat = m) :
    ∃ t, exec i s = .next t ∧ (t.reg VF).toNat = m ∧ t.pc = s.pc + 2 ∧ Frame (· = VF) noByte [] s t := by
  refine ⟨_, h, ?_, rfl, (frame_setReg (regs := (· = VF)) s f rfl).trans (frame_setReg_advance _ VF b)⟩
  rw [advance_setReg_reg_same, hb]

end

/-! ### Subtractions (R157, R159): the difference of two registers once the flag is written -/

section
variable {s : State} {a b : Reg} {f : Byte} {n : Nat}

theorem toNat_sub_of_ne (ha : a ≠ VF) (hb : b ≠ VF) :
    ((s.setReg VF f).reg a - (s.setReg VF f).reg b).toNat = (256 + (s.reg a).toNat - (s.reg b).toNat) % 256 := by
  rw [toNat_sub_byte, setReg_reg_of_ne s f ha, setReg_reg_of_ne s f hb]

theorem toNat_sub_from_flag (hb : b ≠ VF) (hf : f.toNat = n) :
    ((s.setReg VF f).reg VF - (s.setReg VF f).reg b).toNat = (256 + n - (s.reg b).toNat) % 256 := by
  rw [toNat_sub_byte, setReg_reg_same, setReg_reg_of_ne s f hb, hf]

theorem toNat_sub_flag (ha : a ≠ VF) (hf : f.toNat = n) :
    ((s.setReg VF f).reg a - (s.setReg VF f).reg VF).toNat = (256 + (s.reg a).toNat - n) % 256 := by
  rw [toNat_sub_byte, setReg_reg_same, setReg_reg_of_ne s f ha, hf]

end

/-- Settles O28: the flag is in VF, which is no operand, so the difference is that of the registers at the start. -/
theorem subtractionsWithGreaterFlag : Obligations.SubtractionsWithGreaterFlag := fun _ _ _ hx hy =>
  ⟨flag_then_dest_of_exec rfl hx (toNat_sub_of_ne hx hy) (toNat_greaterFlag _ _),
    flag_then_dest_of_exec rfl hx (toNat_sub_of_ne hy hx) (toNat_greaterFlag _ _)⟩

/-- Settles O29, by which field names VF: as destination it loses the flag, as operand it is the flag. -/
theorem subtractionsNamingVF : Obligations.SubtractionsNamingVF := by
  refine fun s r hr => ⟨?sub_VF_r, ?sub_r_VF, ?sub_VF_VF, ?subn_VF_r, ?subn_r_VF, ?subn_VF_VF⟩
  case sub_VF_r => exact flag_overwritten_of_exec rfl (toNat_sub_from_flag hr (toNat_greaterFlag _ _))
  case sub_r_VF =>
    obtain ⟨t, hexec, hdest, hflag, hrest⟩ := flag_then_dest_of_exec (i := .sub r VF) (s := s) rfl hr
      (toNat_sub_flag hr (toNat_greaterFlag _ _)) (toNat_greaterFlag _ _)
    exact ⟨t, hexec, hflag, hdest, hrest⟩
  case subn_VF_r => exact flag_overwritten_of_exec rfl (toNat_sub_flag hr (toNat_greaterFlag _ _))
  case subn_r_VF =>
    obtain ⟨t, hexec, hdest, hflag, hrest⟩ := flag_then_dest_of_exec (i := .subn r VF) (s := s) rfl hr
      (toNat_sub_from_flag hr (toNat_greaterFlag _ _)) (toNat_greaterFlag _ _)
    exact ⟨t, hexec, hflag, hdest, hrest⟩
  case sub_VF_VF => exact flag_overwritten_of_exec rfl (congrArg BitVec.toNat (BitVec.sub_self _))
  case subn_VF_VF => exact flag_overwritten_of_exec rfl (congrArg BitVec.toNat (BitVec.sub_self _))

/-! ### Shifts (R158, R160) -/

/-- Settles O30: the flag is in VF, which is not the register shifted. -/
theorem shiftsOutToVF : Obligations.ShiftsOutToVF := by
  refine fun s x y hx => ⟨flag_then_dest_of_exec rfl hx ?_ (toNat_lowBitFlag _),
    flag_then_dest_of_exec rfl hx ?_ (toNat_highBitFlag _)⟩
  · rw [toNat_shiftRight_one, setReg_reg_of_ne s _ hx]
  · rw [toNat_shiftLeft_one, setReg_reg_of_ne s _ hx]

/-- Settles O31: what is shifted is the bit the flag write left in VF. -/
theorem shiftsNamingVF : Obligations.ShiftsNamingVF := by
  refine fun s y => ⟨flag_overwritten_of_exec rfl ?_, flag_overwritten_of_exec rfl ?_⟩
  · rw [toNat_shiftRight_one, setReg_reg_same, toNat_lowBitFlag]
    omega
  · have hbyte := (s.reg VF).isLt
    rw [toNat_shiftLeft_one, setReg_reg_same, toNat_highBitFlag]
    omega

end Sys2Proof.Machine
end

section
/-! PROOFS. The address register and memory transfers (44_index_memory.md): what a write of I, a store of bytes from I and a load of
registers from I leave; the instructions are uses of these (O32 to O36). A range stored and loaded comes back (O37). -/

namespace Sys2Proof.Machine

/-! ### I written (R170 to R172) -/

theorem frame_setIndex_advance (s : State) (w : Word) : Frame noReg noByte [.index] s (s.setIndex w).advance :=
  frame_of_only_part rfl rfl fun p hp => ((Part.same.refl p s).setIndex w hp).advance

/-- Five times a byte does not wrap (R172). -/
theorem toNat_glyphAddress (b : Byte) : (glyphAddress b).toNat = 5 * b.toNat := by
  have hb := b.isLt
  have h5 : (5 : Word).toNat = 5 := rfl
  rw [glyphAddress, BitVec.toNat_mul, toNat_zext16, h5]
  exact Nat.mod_eq_of_lt (by omega)

/-- Settles O32: the words decode as the encoder writes them, and the operand is written to I. -/
theorem loadIndexImmediate : Obligations.LoadIndexImmediate := by
  refine ⟨fun nnn => ?_, fun s nnn => ⟨_, rfl, toNat_addrOperand nnn, rfl, frame_setIndex_advance s _⟩⟩
  rw [decodeWord_wordNNN]
  exact dispatch_nibbles (i := .ldI nnn) rfl

/-- Settles O33: each instruction is one write of its sum or product to I. -/
theorem indexSumsAndGlyphs : Obligations.IndexSumsAndGlyphs := by
  refine fun s x => ⟨⟨_, rfl, ?_, rfl, frame_setIndex_advance s _⟩,
    ⟨_, rfl, toNat_glyphAddress (s.reg x), rfl, frame_setIndex_advance s _⟩⟩
  rw [advance_i, setIndex_i, BitVec.toNat_add, toNat_zext16]

/-! ### Bytes stored from I (R173, R174) -/

/-- A checked access whose range ends at or below 0xFFF has its effect (R56). -/
theorem checkRange_of_le {s : State} {len : Nat} (e : State) (h : s.i.toNat + len ≤ 0x1000) : s.checkRange len e = .next e :=
  (checkRange_cases ..).2 (.inl ⟨(rangeOk_iff ..).2 (.inr h), rfl⟩)

/-- The k-th byte stored is at the k-th effective address. -/
theorem byteAt_storeAtI (s : State) (bs : List Byte) {k : Nat} (h : k < bs.length) :
    (s.setMem (s.storeAtI bs)).advance.byteAt (s.ea k) = bs[k] :=
  Memory.read_writeBytes_inside bs s.mem s.i.toNat k h

/-- A store of `k + 1` bytes changes the bytes at the effective addresses 0 to `k` only. -/
theorem frame_storeAtI (s : State) {bs : List Byte} {k : Nat} (hlen : bs.length = k + 1) :
    Frame noReg (fun a => s.ea 0 ≤ a ∧ a ≤ s.ea k) [] s (s.setMem (s.storeAtI bs)).advance := by
  refine ⟨fun _ _ => rfl, fun a ha => ?_, fun p _ => ((Part.same.refl p s).setMem _).advance⟩
  refine Memory.read_writeBytes_outside bs s.mem s.i.toNat a fun hin => ha ?_
  simp only [State.ea]
  omega

/-- Fx33 in bounds stores the digits of Vx at I and advances (R173). -/
theorem exec_ldBVx_inBounds {s : State} {x : Reg} (h : s.i.toNat + 2 ≤ 0xFFF) :
    exec (.ldBVx x) s = .next (s.setMem (s.storeAtI (bcdDigits (s.reg x)))).advance :=
  checkRange_of_le _ (Nat.succ_le_succ h)

/-- Settles O34: the bytes stored are the three digits. -/
theorem storeDecimalDigits : Obligations.StoreDecimalDigits := by
  intro s x hx
  refine ⟨_, exec_ldBVx_inBounds hx, ?hundreds, ?tens, ?ones, rfl, frame_storeAtI s (bs := bcdDigits (s.reg x)) rfl⟩
  case hundreds =>
    rw [byteAt_storeAtI s (bcdDigits (s.reg x)) (by decide : 0 < 3)]
    exact BitVec.toNat_udiv
  case tens =>
    rw [byteAt_storeAtI s (bcdDigits (s.reg x)) (by decide : 1 < 3)]
    exact BitVec.toNat_umod.trans (congrArg (· % 10) BitVec.toNat_udiv)
  case ones =>
    rw [byteAt_storeAtI s (bcdDigits (s.reg x)) (by decide : 2 < 3)]
    exact BitVec.toNat_umod

/-- Settles O35: the bytes stored are those of V0..Vx. -/
theorem storeRegisterRange : Obligations.StoreRegisterRange := fun s x hx =>
  ⟨_, exec_ldMemVx_inBounds hx, fun _ hk => read_storeAtI_regsTo s hk, rfl, frame_storeAtI s (length_regsTo s x)⟩

/-! ### Registers loaded from I (R175) -/

/-- Fx65 in bounds loads V0..Vx and advances (R175). -/
theorem exec_ldVxMem_inBounds {s : State} {x : Reg} (h : s.i.toNat + x.val ≤ 0xFFF) :
    exec (.ldVxMem x) s = .next (s.setRegs (s.loadRegsTo x)).advance :=
  checkRange_of_le _ (Nat.succ_le_succ h)

/-- What a register holds after a load of V0..Vx. -/
theorem reg_loadRegsTo (s : State) (x k : Reg) :
    (s.setRegs (s.loadRegsTo x)).advance.reg k = if k ≤ x then s.byteAt (s.ea k) else s.reg k :=
  getElem_loadRegsTo s x k

theorem frame_loadRegsTo (s : State) (x : Reg) : Frame (· ≤ x) noByte [] s (s.setRegs (s.loadRegsTo x)).advance := by
  refine ⟨fun r hr => ?_, fun _ _ => rfl, fun p _ => ((Part.same.refl p s).setRegs _).advance⟩
  rw [reg_loadRegsTo, if_neg hr]

/-- Settles O36, from `reg_loadRegsTo` and its frame. -/
theorem loadRegisterRange : Obligations.LoadRegisterRange := by
  refine fun s x hx => ⟨_, exec_ldVxMem_inBounds hx, fun k hk => ?_, rfl, frame_loadRegsTo s x⟩
  rw [reg_loadRegsTo, if_pos hk]

/-- Settles O37: the load reads, at the same addresses, the bytes the store left there. -/
theorem storeThenLoadRestores : Obligations.StoreThenLoadRestores := by
  refine fun s x hx => ⟨_, exec_ldMemVx_inBounds hx, fun u hi hmem => ⟨_, exec_ldVxMem_inBounds (hi ▸ hx), fun k => ?_⟩⟩
  rw [reg_loadRegsTo]
  split_ifs with hk
  · rw [State.byteAt, hmem, State.ea, hi]
    exact read_storeAtI_regsTo s hk
  · rfl

end Sys2Proof.Machine
end

section
/-! PROOFS. The reference Display (R183, R184): a draw overlays a mask of bits on the grid, one drawn bit after another at places that do
not repeat; what each pixel becomes and when the draw collides follow from the mask (O41 to O43). -/

namespace Sys2Proof.Machine

/-! ### Overlays -/

/-- From `a` to `b` each bit of `mask` is XORed into its pixel, and a collision is reported exactly where a 1 bit meets a lit pixel of
`a`. -/
structure Overlays (mask : Fin 32 → Fin 64 → Bool) (a b : Grid × Bool) : Prop where
  pixel : ∀ row col, b.1.pixel row col = (a.1.pixel row col ^^ mask row col)
  collision : b.2 = true ↔ a.2 = true ∨ ∃ row col, mask row col = true ∧ a.1.pixel row col = true

theorem overlays_none {m : Fin 32 → Fin 64 → Bool} (a : Grid × Bool) (hm : ∀ row col, m row col = false) : Overlays m a a := by
  constructor <;> simp [hm]

/-- Overlays one after the other are one overlay, where no place has a 1 bit in both masks: the second then meets the pixels the first
left as they were. -/
theorem Overlays.trans {m m' m'' : Fin 32 → Fin 64 → Bool} {a b c : Grid × Bool} (h : Overlays m a b) (h' : Overlays m' b c)
    (hdisj : ∀ row col, m row col = true → m' row col = false) (hor : ∀ row col, m'' row col = (m row col || m' row col)) :
    Overlays m'' a c := by
  constructor
  · intro row col
    rw [h'.pixel, h.pixel, hor]
    cases hm : m row col
    · simp
    · simp [hdisj row col hm]
  · have hkept : ∀ row col, m' row col = true → b.1.pixel row col = a.1.pixel row col := by
      intro row col hm'
      have hm : m row col = false := Bool.eq_false_iff.2 fun hm => by simp [hdisj row col hm] at hm'
      rw [h.pixel, hm, Bool.xor_false]
    have hmeets : (∃ row col, m' row col = true ∧ b.1.pixel row col = true) ↔
        ∃ row col, m' row col = true ∧ a.1.pixel row col = true :=
      exists₂_congr fun row col => and_congr_right fun hm' => by rw [hkept row col hm']
    rw [h'.collision, h.collision, hmeets, or_assoc]
    simp only [hor, Bool.or_eq_true, or_and_right, exists_or]

/-! ### Places on the torus -/

/-- The place `k` steps on from `a` along a torus is the one whose offset from `a` is `k` (R183). -/
theorem ofNat_add_eq_iff {n : Nat} [NeZero n] (a : Nat) {k : Nat} (hk : k < n) (i : Fin n) :
    Fin.ofNat n (a + k) = i ↔ (i - Fin.ofNat n a).val = k := by
  have hadd : Fin.ofNat n (a + k) = Fin.ofNat n k + Fin.ofNat n a := by
    apply Fin.ext
    simp [Fin.val_add, Nat.add_comm]
  have hval : (i - Fin.ofNat n a).val = k ↔ i - Fin.ofNat n a = Fin.ofNat n k := by
    rw [Fin.ext_iff, Fin.val_ofNat, Nat.mod_eq_of_lt hk]
  rw [hadd, hval, sub_eq_iff_eq_add, eq_comm]

/-- How far a pixel stands below row `y` of the torus. -/
def rowOffset (y : Byte) (row : Fin 32) : Nat := (row - Fin.ofNat 32 y.toNat).val

/-- How far a pixel stands to the right of column `x` of the torus. -/
def colOffset (x : Byte) (col : Fin 64) : Nat := (col - Fin.ofNat 64 x.toNat).val

theorem rowOffset_eq_iff {y : Byte} {row : Fin 32} {r : Nat} (hr : r < 32) :
    rowOffset y row = r ↔ row.val = (y.toNat + r) % 32 :=
  (ofNat_add_eq_iff y.toNat hr row).symm.trans (Fin.ext_iff.trans eq_comm)

theorem colOffset_eq_iff {x : Byte} {col : Fin 64} {c : Nat} (hc : c < 64) :
    colOffset x col = c ↔ col.val = (x.toNat + c) % 64 :=
  (ofNat_add_eq_iff x.toNat hc col).symm.trans (Fin.ext_iff.trans eq_comm)

/-- The bit that rows of a sprite at (x, y), the first of them row `r`, have over a pixel: a 0 bit where they do not reach it. -/
def spriteMask (x y : Byte) (r : Nat) (rows : List Byte) (row : Fin 32) (col : Fin 64) : Bool :=
  decide (r ≤ rowOffset y row) && (rows.getD (rowOffset y row - r) 0).getMsbD (colOffset x col)

/-! ### Draws are overlays -/

/-- A sprite bit is overlaid at its place (R183). -/
theorem overlays_drawPixel (a : Grid × Bool) (x y : Byte) {r c : Nat} (hr : r < 32) (hc : c < 64) (bit : Bool) :
    Overlays (fun row col => decide (rowOffset y row = r ∧ colOffset x col = c) && bit) a
      (drawPixel a (Fin.ofNat 32 (y.toNat + r)) (Fin.ofNat 64 (x.toNat + c)) bit) := by
  have hrow (row : Fin 32) : Fin.ofNat 32 (y.toNat + r) = row ↔ rowOffset y row = r := ofNat_add_eq_iff y.toNat hr row
  have hcol (col : Fin 64) : Fin.ofNat 64 (x.toNat + c) = col ↔ colOffset x col = c := ofNat_add_eq_iff x.toNat hc col
  constructor
  · intro row col
    simp only [drawPixel_pixel, hrow, hcol]
  · simp [drawPixel_collision, ← hrow, ← hcol, and_comm, and_assoc]

/-- The first `n` bits of a row of a sprite are overlaid, from left to right (R183). -/
theorem overlays_row_bits (a : Grid × Bool) (x y : Byte) {r : Nat} (hr : r < 32) (b : Byte) {n : Nat} (hn : n ≤ 8) :
    Overlays (fun row col => decide (rowOffset y row = r) && (decide (colOffset x col < n) && b.getLsbD (7 - colOffset x col))) a
      ((List.range n).foldl
        (fun a c => drawPixel a (Fin.ofNat 32 (y.toNat + r)) (Fin.ofNat 64 (x.toNat + c)) (b.getLsbD (7 - c))) a) := by
  induction n with
  | zero => exact overlays_none a (by simp)
  | succ n ih =>
    rw [List.range_succ, List.foldl_append]
    refine (ih (by omega)).trans (overlays_drawPixel _ x y hr (by omega : n < 64) _) (fun row col h => ?_) (fun row col => ?_)
    · have hlt : colOffset x col ≠ n := fun he => by simp [he] at h
      simp [hlt]
    · rcases Nat.lt_trichotomy (colOffset x col) n with hlt | heq | hgt
      · simp [hlt, hlt.ne, Nat.lt_succ_of_lt hlt]
      · simp [heq]
      · simp [hgt.ne', hgt.not_gt, Nat.not_lt.2 hgt]

/-- A row of a sprite is overlaid (R183). -/
theorem overlays_drawRow (a : Grid × Bool) (x y : Byte) {r : Nat} (hr : r < 32) (b : Byte) :
    Overlays (fun row col => decide (rowOffset y row = r) && b.getMsbD (colOffset x col)) a (drawRow a x y r b) :=
  overlays_row_bits a x y hr b (Nat.le_refl 8)

/-- Rows of a sprite are overlaid, where they do not come round to the first of them (R183). -/
theorem overlays_drawRows (a : Grid × Bool) (x y : Byte) {r : Nat} {rows : List Byte} (h : r + rows.length ≤ 32) :
    Overlays (spriteMask x y r rows) a (drawRows a x y r rows) := by
  induction rows generalizing a r with
  | nil => exact overlays_none a (by simp [spriteMask])
  | cons b rows ih =>
    rw [List.length_cons] at h
    refine (overlays_drawRow a x y (by omega) b).trans (ih _ (by omega)) (fun row col hm => ?_) (fun row col => ?_)
    · have hr : rowOffset y row = r := of_decide_eq_true (Bool.and_eq_true_iff.1 hm).1
      simp [spriteMask, hr]
    · rcases Nat.lt_trichotomy (rowOffset y row) r with hlt | heq | hgt
      · simp [spriteMask, hlt.ne, hlt.not_ge, Nat.not_le.2 (Nat.lt_succ_of_lt hlt)]
      · simp [spriteMask, heq]
      · have hsub : rowOffset y row - r = rowOffset y row - (r + 1) + 1 := by omega
        simp [spriteMask, hgt.ne', hgt.le, Nat.succ_le_of_lt hgt, hsub]

/-- A draw of a sprite of at most 32 rows overlays the sprite (R183, R184). -/
theorem overlays_draw (g : Grid) (x y : Byte) {sprite : List Byte} (h : sprite.length ≤ 32) :
    Overlays (spriteMask x y 0 sprite) (g, false) (g.draw x y sprite) :=
  overlays_drawRows _ x y (by omega)

theorem draw_pixel (g : Grid) (x y : Byte) {sprite : List Byte} (h : sprite.length ≤ 32) (row : Fin 32) (col : Fin 64) :
    (g.draw x y sprite).1.pixel row col = (g.pixel row col ^^ spriteMask x y 0 sprite row col) :=
  (overlays_draw g x y h).pixel row col

theorem draw_collision_iff (g : Grid) (x y : Byte) {sprite : List Byte} (h : sprite.length ≤ 32) :
    (g.draw x y sprite).2 = true ↔ ∃ row col, spriteMask x y 0 sprite row col = true ∧ g.pixel row col = true := by
  simpa using (overlays_draw g x y h).collision

/-! ### The mask of a sprite, bit by bit -/

/-- The mask over a pixel is the sprite bit there. -/
theorem spriteMask_at {x y : Byte} {sprite : List Byte} (h : sprite.length ≤ 32) {row : Fin 32} {col : Fin 64} {r c : Nat}
    (hr : r < sprite.length) (hc : c < 8) (hrow : row.val = (y.toNat + r) % 32) (hcol : col.val = (x.toNat + c) % 64) :
    spriteMask x y 0 sprite row col = sprite[r].getLsbD (7 - c) := by
  have hrow' := (rowOffset_eq_iff (by omega)).2 hrow
  have hcol' := (colOffset_eq_iff (by omega)).2 hcol
  simp [spriteMask, hrow', hcol', hr, BitVec.getMsbD, hc]

/-- A 1 bit of the mask is a 1 bit of the sprite over that pixel. -/
theorem spriteMask_iff {x y : Byte} {sprite : List Byte} (h : sprite.length ≤ 32) {row : Fin 32} {col : Fin 64} :
    spriteMask x y 0 sprite row col = true ↔ ∃ (r c : Nat) (hr : r < sprite.length), c < 8 ∧
      row.val = (y.toNat + r) % 32 ∧ col.val = (x.toNat + c) % 64 ∧ sprite[r].getLsbD (7 - c) = true := by
  constructor
  · intro hm
    have hr : rowOffset y row < sprite.length := by
      by_contra hr
      simp [spriteMask, hr] at hm
    have hc : colOffset x col < 8 := by
      by_contra hc
      simp [spriteMask, hc, BitVec.getMsbD] at hm
    have hrow := (rowOffset_eq_iff (y := y) (row := row) (Fin.isLt _)).1 rfl
    have hcol := (colOffset_eq_iff (x := x) (col := col) (Fin.isLt _)).1 rfl
    exact ⟨_, _, hr, hc, hrow, hcol, spriteMask_at h hr hc hrow hcol ▸ hm⟩
  · rintro ⟨r, c, hr, hc, hrow, hcol, hbit⟩
    rw [spriteMask_at h hr hc hrow hcol, hbit]

/-- Settles O41: the mask over a pixel is the sprite bit there, and 0 where no bit is. -/
theorem spritePixelsXor : Obligations.SpritePixelsXor := by
  refine fun g x y sprite h => ⟨fun row col r c hr hc hrow hcol => ?_, fun row col hout => ?_⟩
  · rw [draw_pixel g x y h, spriteMask_at h hr hc hrow hcol]
  · have hm : spriteMask x y 0 sprite row col = false := by
      refine Bool.eq_false_iff.2 fun hm => ?_
      obtain ⟨r, c, hr, hc, hrow, hcol, -⟩ := (spriteMask_iff h).1 hm
      exact hout r c hr hc ⟨hrow, hcol⟩
    rw [draw_pixel g x y h, hm, Bool.xor_false]

/-- Settles O42: the bits of the mask are those of the sprite. -/
theorem collisionExactlyWhereLit : Obligations.CollisionExactlyWhereLit := by
  intro g x y sprite h
  rw [draw_collision_iff g x y h]
  refine exists₂_congr fun row col => ?_
  rw [spriteMask_iff h]
  simp only [← exists_and_right, and_assoc]

/-- Settles O43: the two overlays of the mask cancel, and a 1 bit meets a lit pixel the second time where the first made it lit. -/
theorem drawingTwiceRestores : Obligations.DrawingTwiceRestores := by
  refine fun g x y sprite h => ⟨grid_ext fun row col => ?_, ?_⟩
  · rw [draw_pixel _ x y h, draw_pixel g x y h, Bool.xor_assoc, Bool.xor_self, Bool.xor_false]
  · rw [draw_collision_iff _ x y h]
    refine exists₂_congr fun row col => ?_
    rw [draw_pixel g x y h]
    cases g.pixel row col
    · simp
    · simp

end Sys2Proof.Machine
end

section
/-! PROOFS. Display and random instructions (45_display_random.md): what 00E0, Dxyn and Cxkk leave of each part (O39, O40, O44), and that
only Dxyn takes anything back from the Display (O52). -/

namespace Sys2Proof.Machine

/-- Settles O52: the Display and the events are outputs, and Dxyn is left out. -/
theorem displayInvisibleButForCollision : Obligations.DisplayInvisibleButForCollision := fun i _ _ t hdrw h =>
  exec_answersAlike i (by decide) (fun hm => absurd hm (by decide)) (fun _ => hdrw) h t

/-! ### 00E0 (R181) -/

/-- Only the reference Display is changed by a clear (R185). -/
theorem clear_of_not_reference {d : Display} (h : ∀ g, d ≠ .reference g) : d.clear = d := by
  cases d with
  | reference g => exact absurd rfl (h g)
  | null | external => rfl

theorem frame_clearDisplay_advance (s : State) : Frame noReg noByte [.display, .events] s s.clearDisplay.advance := by
  refine ⟨fun _ _ => rfl, fun _ _ => rfl, fun p hp => ?_⟩
  obtain ⟨hdisplay, hevents⟩ : p ≠ .display ∧ p ≠ .events := by simpa using hp
  exact ((Part.same.refl p s).clearDisplay hdisplay hevents).advance

/-- Settles O39: the reference Display is the blank grid, and `clear_of_not_reference` is the other kinds. -/
theorem clearScreen : Obligations.ClearScreen := by
  refine ⟨by decide, fun s => ⟨_, rfl, rfl, fun g hg => ⟨Grid.blank, ?_, blank_pixel⟩, fun hg => clear_of_not_reference hg, rfl,
    frame_clearDisplay_advance s⟩⟩
  rw [advance_display, clearDisplay_display, hg, Display.clear]

/-! ### Dxyn (R182) -/

/-- A free value is taken exactly where an external Display with no reply supplied is given a sprite (R180; log entry 5). -/
theorem drawsFree_iff (d : Display) (bs : List Byte) : d.drawsFree bs = true ↔ d = .external [] ∧ 0 < bs.length := by
  cases bs with
  | nil => simp
  | cons b bs =>
    match d with
    | .external [] => simp [Display.drawsFree]
    | .external (_ :: _) | .reference _ | .null => simp [Display.drawsFree]

/-- An external Display answers a sprite with the next reply supplied. -/
theorem draw_external_cons (r : Bool) (rs : List Bool) (free : Bool) (x y : Byte) {bs : List Byte} (h : 0 < bs.length) :
    (Display.external (r :: rs)).draw free x y bs = (.external rs, r) := by
  cases bs with
  | nil => exact absurd h (Nat.lt_irrefl 0)
  | cons => rfl

/-- Dxyn in bounds draws the bytes at I, then writes the reply to VF (R182). -/
theorem exec_drw_inBounds {s : State} {x y : Reg} {n : Nibble} (h : n.toNat = 0 ∨ s.i.toNat + n.toNat - 1 ≤ 0xFFF) :
    exec (.drw x y n) s = .next ((s.drawSprite (s.reg x) (s.reg y) (s.bytesAtI n.toNat)).setReg VF
      (collisionFlag (s.drawReply (s.reg x) (s.reg y) (s.bytesAtI n.toNat)))).advance :=
  (checkRange_cases ..).2 (.inl ⟨(rangeOk_iff ..).2 (by omega), rfl⟩)

theorem frame_draw_flag_advance (s : State) (x y : Byte) (bs : List Byte) (f : Byte) :
    Frame (· = VF) noByte [.display, .events, .draws] s ((s.drawSprite x y bs).setReg VF f).advance := by
  refine ⟨fun r hr => setReg_reg_of_ne _ f hr, fun _ _ => rfl, fun p hp => ?_⟩
  obtain ⟨hdisplay, hevents, hdraws⟩ : p ≠ .display ∧ p ≠ .events ∧ p ≠ .draws := by simpa using hp
  exact (((Part.same.refl p s).drawSprite x y bs hdisplay hdraws hevents).setReg VF f).advance

/-- Settles O40: the draw is that of `exec_drw_inBounds`; what it replies is said by `draw_nil` for an empty sprite and by the kind of
Display for the others. -/
theorem drawReportsCollision : Obligations.DrawReportsCollision := by
  intro s x y n h
  have hlen : (s.bytesAtI n.toNat).length = n.toNat := length_bytesAtI s n.toNat
  refine ⟨_, s.bytesAtI n.toNat, Config.freeCollision s.draws, s.drawReply (s.reg x) (s.reg y) (s.bytesAtI n.toNat),
    exec_drw_inBounds h, hlen, fun k hk => Memory.getElem_readBytes _ _ _ k hk, rfl, fun hn => ?empty, fun hnull => ?null,
    fun r rs hext hn => ?external, ?draws, advance_setReg_reg_same _ VF _, rfl, rfl, frame_draw_flag_advance s _ _ _ _⟩
  case empty =>
    have hnil : s.bytesAtI n.toNat = [] := List.eq_nil_of_length_eq_zero (hlen.trans hn)
    simp [State.drawReply, hnil]
  case null =>
    rw [State.drawReply, hnull]
    rfl
  case external =>
    have hdraw := draw_external_cons r rs (Config.freeCollision s.draws) (s.reg x) (s.reg y) (hlen.symm ▸ hn)
    rw [← hext] at hdraw
    exact ⟨congrArg Prod.snd hdraw, congrArg Prod.fst hdraw⟩
  case draws =>
    simp only [advance_draws, setReg_draws, drawSprite_draws, drawsFree_iff, hlen]

/-! ### Cxkk (R186) -/

theorem frame_consumeRandom_setReg_advance (s : State) (x : Reg) (b : Byte) :
    Frame (· = x) noByte [.random, .draws] s (s.consumeRandom.setReg x b).advance := by
  refine ⟨fun r hr => setReg_reg_of_ne _ b hr, fun _ _ => rfl, fun p hp => ?_⟩
  obtain ⟨hrandom, hdraws⟩ : p ≠ .random ∧ p ≠ .draws := by simpa using hp
  exact (((Part.same.refl p s).consumeRandom hrandom hdraws).setReg x b).advance

/-- Settles O44: the sample is `State.randomByte`, and what it takes from the queue or the counter is `State.consumeRandom`. -/
theorem randomByteMasked : Obligations.RandomByteMasked := by
  refine ⟨fun x kk => ?_, fun s x kk => ⟨_, s.randomByte, rfl, fun b => ?mask, fun q qs hq => ?supplied, fun hnil => ?free, rfl,
    frame_consumeRandom_setReg_advance s x _⟩⟩
  · rw [decodeWord_wordXKK]
    exact dispatch_nibbles (i := .rnd x kk) rfl
  case mask => rw [advance_setReg_reg_same, BitVec.getLsbD_and]
  case supplied => simp [State.randomByte, hq]
  case free => simp [hnil]

end Sys2Proof.Machine
end

section
/-! PROOFS. Keyboard instructions (46_keyboard.md): the key skips are uses of `skip_of_exec` (O45); the key Fx0A takes is a pressed one,
whichever the draw (O46). -/

namespace Sys2Proof.Machine

/-! ### Ex9E and ExA1 (R191, R192) -/

/-- A key instruction has its effect where the register holds a key number (R195). -/
theorem checkKey_of_le {s : State} {x : Reg} (e : State) (h : (s.reg x).toNat ≤ 15) : s.checkKey x e = .next e :=
  (checkKey_cases ..).2 (.inl ⟨h, rfl⟩)

/-- Settles O45: each skip tests the sample of its key, ExA1 for 0. -/
theorem keySkips : Obligations.KeySkips := by
  intro s x hkey
  refine ⟨skip_of_exec (checkKey_of_le _ hkey) Iff.rfl, ?_⟩
  have hup : (!s.isPressed (s.reg x).toNat) = true ↔ ¬ s.keys.getLsbD (s.reg x).toNat = true := by simp [State.isPressed]
  simpa only [ite_not] using skip_of_exec (i := .sknp x) (checkKey_of_le _ hkey) hup

/-! ### Fx0A (R193) -/

/-- The key taken is a key number, and pressed, for whichever draw (R196). -/
theorem chosenKey_pressedKeys {s : State} (h : s.keys ≠ 0) :
    s.chosenKey s.pressedKeys < 16 ∧ s.keys.getLsbD (s.chosenKey s.pressedKeys) = true :=
  (mem_pressedKeys ..).1 (chosenKey_mem s _ (pressedKeys_ne_nil s h))

theorem frame_takeKey (s : State) (ks : List Nat) (x : Reg) (b : Byte) :
    Frame (· = x) noByte [.runState, .draws] s (((s.consumeChoice ks).setReg x b).setRun .running).advance := by
  refine ⟨fun r hr => setReg_reg_of_ne _ b hr, fun _ _ => rfl, fun p hp => ?_⟩
  obtain ⟨hrun, hdraws⟩ : p ≠ .runState ∧ p ≠ .draws := by simpa using hp
  exact ((((Part.same.refl p s).consumeChoice ks hdraws).setReg x b).setRun _ hrun).advance

/-- A key number goes into a byte whole. -/
theorem toNat_takeKey_reg (s : State) (ks : List Nat) (x : Reg) {k : Nat} (hk : k < 16) :
    ((((s.consumeChoice ks).setReg x (BitVec.ofNat 8 k)).setRun .running).advance.reg x).toNat = k := by
  rw [advance_reg, setRun_reg, setReg_reg_same, BitVec.toNat_ofNat]
  omega

/-- Settles O46: a hold writes RUN only; otherwise the register holds the key of `chosenKey_pressedKeys`. -/
theorem waitForKey : Obligations.WaitForKey := by
  intro s x
  rcases execLdVxK_cases x s with ⟨hnone, hexec⟩ | ⟨hsome, hexec⟩
  · exact ⟨fun _ => ⟨_, hexec, rfl, rfl, frame_setRun s _⟩, fun h => absurd hnone h⟩
  · refine ⟨fun h => absurd h hsome, fun _ => ⟨_, hexec, ?_⟩⟩
    obtain ⟨hlt, hpressed⟩ := chosenKey_pressedKeys hsome
    rw [toNat_takeKey_reg s _ x hlt]
    exact ⟨hlt, hpressed, rfl, rfl, frame_takeKey s _ x _⟩

end Sys2Proof.Machine
end

section
/-! PROOFS. Timer instructions (47_timer_ops.md): what a set of ST notifies in each case of R233 and what it calls (O48); Fx07 and Fx15 are
one write each (O47). -/

namespace Sys2Proof.Machine

/-! ### Fx18 (R202, R233) -/

theorem timerSet_starts {old v : Byte} (hold : old.toNat = 0) (hv : 0 < v.toNat) : (timerSet old v).2 = some .start := by
  rw [timerSet_notice, if_pos ⟨hold, hv.ne'⟩]

theorem timerSet_stops {old v : Byte} (hold : 0 < old.toNat) (hv : v.toNat = 0) : (timerSet old v).2 = some .stop := by
  rw [timerSet_notice, if_neg fun h => hold.ne' h.1, if_pos ⟨hold.ne', hv⟩]

/-- A set that does not cross between zero and nonzero notifies nobody. -/
theorem timerSet_silent {old v : Byte} (h : old.toNat = 0 ↔ v.toNat = 0) : (timerSet old v).2 = none := by
  rw [timerSet_notice, if_neg fun hrise => hrise.2 (h.1 hrise.1), if_neg fun hfall => hfall.1 (h.2 hfall.2)]

/-- The Buzzer and the event list after Fx18 follow the notification of the set. -/
theorem stSet_advance_of_notice {s : State} {v : Byte} {n : Option Notification} (h : (timerSet s.st v).2 = n) :
    (s.stSet v).advance.events = s.events ++ notificationEvents n ∧ (s.stSet v).advance.buzzer = buzzerAfter s.buzzer n := by
  subst h
  exact ⟨rfl, rfl⟩

theorem frame_stSet_advance (s : State) (v : Byte) :
    Frame noReg noByte [.soundTimer, .buzzer, .events] s (s.stSet v).advance := by
  refine ⟨fun _ _ => rfl, fun _ _ => rfl, fun p hp => ?_⟩
  obtain ⟨hst, hbuzzer, hevents⟩ : p ≠ .soundTimer ∧ p ≠ .buzzer ∧ p ≠ .events := by simpa using hp
  exact ((Part.same.refl p s).stSet v hst hbuzzer hevents).advance

/-- Settles O48: each clause is the notification of its case of R233. -/
theorem soundTimerSet : Obligations.SoundTimerSet := by
  refine fun s x => ⟨_, rfl, rfl, fun hst hx => ?up, fun hst hx => ?down, fun hsame => ?level, rfl, frame_stSet_advance s _⟩
  case up => exact stSet_advance_of_notice (timerSet_starts hst hx)
  case down => exact stSet_advance_of_notice (timerSet_stops hst hx)
  case level =>
    obtain ⟨hevents, hbuzzer⟩ := stSet_advance_of_notice (timerSet_silent hsame)
    exact ⟨hevents.trans (List.append_nil _), hbuzzer⟩

/-! ### Fx07 and Fx15 (R200, R201) -/

theorem frame_dtSet_advance (s : State) (v : Byte) : Frame noReg noByte [.delayTimer] s (s.dtSet v).advance :=
  frame_of_only_part rfl rfl fun p hp => ((Part.same.refl p s).dtSet v hp).advance

/-- Settles O47: the words decode as the encoder writes them; Fx07 is one write of Vx, Fx15 one of DT. -/
theorem delayTimerAccess : Obligations.DelayTimerAccess := by
  refine ⟨fun x => ?_, fun s x => ⟨⟨_, rfl, advance_setReg_reg_same s x s.dt, rfl, frame_setReg_advance s x _⟩,
    ⟨_, rfl, rfl, rfl, frame_dtSet_advance s _⟩⟩⟩
  rw [decodeWord_wordXKK, decodeWord_wordXKK]
  exact ⟨dispatch_nibbles (i := .ldVxDT x) rfl, dispatch_nibbles (i := .ldDTVx x) rfl⟩

end Sys2Proof.Machine
end

section
/-! PROOFS. Ticks as notifications of the Buzzer (O10), and the Buzzer's events alternating over every step (O56): a tick of ST is a set of
ST to the value after it, so that `State.stSet` alone has to keep the alternation. -/

namespace Sys2Proof.Machine

/-! ### Ticks (R232) -/

/-- The Buzzer's condition after a tick of ST. -/
theorem stTick_buzzer_eq (s : State) : s.stTick.buzzer = if s.st.toNat = 1 then false else s.buzzer := by
  rw [stTick_buzzer, timerTick_notice]
  split_ifs
  · rfl
  · rfl

/-- The events after a tick of ST. -/
theorem stTick_events_eq (s : State) : s.stTick.events = s.events ++ if s.st.toNat = 1 then [.buzzerStop] else [] := by
  rw [stTick_events, timerTick_notice]
  split_ifs
  · rfl
  · rfl

/-- A tick notifies as the set to the same value does (R232, R233). -/
theorem timerTick_eq_timerSet (b : Byte) : timerTick b = timerSet b (timerTick b).1 := by
  revert b; decide

theorem stTick_eq_stSet (s : State) : s.stTick = s.stSet (timerTick s.st).1 := by
  rw [State.stTick, timerTick_eq_timerSet]
  rfl

theorem frame_dtTick (s : State) : Frame noReg noByte [.delayTimer] s s.dtTick :=
  frame_of_only_part rfl rfl fun p hp => (Part.same.refl p s).dtSet _ hp

theorem frame_stTick (s : State) : Frame noReg noByte [.soundTimer, .buzzer, .events] s s.stTick := by
  rw [stTick_eq_stSet]
  exact frame_stSet_advance s _

/-- Settles O10: the value by `toNat_timerTick`, the notification by `timerTick_notice`. -/
theorem ticksCountDown : Obligations.TicksCountDown := by
  refine ⟨fun s hn => ?_, fun s hn => ?_⟩
  · exact ⟨s.turnTaken.dtTick, by rw [step_eq, hn, takeTurn], toNat_timerTick s.dt, rfl, frame_dtTick _⟩
  · exact ⟨s.turnTaken.stTick, by rw [step_eq, hn, takeTurn], toNat_timerTick s.st, rfl, stTick_events_eq s.turnTaken,
      stTick_buzzer_eq s.turnTaken, frame_stTick _⟩

/-! ### What a cycle can answer (R118) -/

/-- The same state, a change of RUN, a fault, or what an instruction answers. -/
theorem cycle_next {s t : State} (h : cycle s = .next t) :
    t = s ∨ (∃ r, t = s.setRun r) ∨ (∃ code info, t = s.raise code info) ∨ ∃ i, exec i s = .next t := by
  rcases cycle_cases s with ⟨_, hc⟩ | ⟨_, _, hc⟩ | ⟨_, _, _, hc⟩ | ⟨_, _, _, _, hc⟩ | ⟨_, _, _, _, hc⟩ <;> rw [hc] at h
  · cases h
    exact .inl rfl
  · cases h
    exact .inr (.inl ⟨_, rfl⟩)
  · cases h
    exact .inr (.inl ⟨_, rfl⟩)
  · cases h
    exact .inr (.inr (.inl ⟨_, _, rfl⟩))
  · rcases runAtPC_cases s with ⟨i, _, hi⟩ | ⟨_, hi⟩ <;> rw [hi] at h
    · exact .inr (.inr (.inr ⟨i, h⟩))
    · cases h
      exact .inr (.inr (.inl ⟨_, _, rfl⟩))

/-! ### The trace of the Buzzer (R235) -/

/-- A list of events is traced as its first part, then its second from the condition the first leads to. -/
theorem buzzerTrace_append (on : Bool) (es es' : List Event) :
    buzzerTrace on (es ++ es') = (buzzerTrace on es).bind fun on' => buzzerTrace on' es' := by
  induction es generalizing on with
  | nil => rfl
  | cons e es ih =>
    cases e with
    | displayClear | displayDraw => exact ih on
    | buzzerStart =>
      cases on
      · exact ih true
      · rfl
    | buzzerStop =>
      cases on
      · rfl
      · exact ih false

/-- Events that lead from the Buzzer's condition to the new one, which fits the new ST, keep the invariant. -/
theorem buzzerInv_of_trace {s t : State} {es : List Event} (hs : BuzzerInv s) (hevents : t.events = s.events ++ es)
    (htrace : buzzerTrace s.buzzer es = some t.buzzer) (hon : t.buzzer = true ↔ t.st.toNat > 0) : BuzzerInv t := by
  refine ⟨?_, hon⟩
  rw [hevents, buzzerTrace_append, hs.1]
  exact htrace

/-- Where ST and the Buzzer stay, events that the trace ignores keep the invariant. -/
theorem buzzerInv_of_silent {s t : State} {es : List Event} (hs : BuzzerInv s) (hst : t.st = s.st) (hbuzzer : t.buzzer = s.buzzer)
    (hevents : t.events = s.events ++ es) (hsilent : buzzerTrace s.buzzer es = some s.buzzer) : BuzzerInv t :=
  buzzerInv_of_trace hs hevents (hbuzzer ▸ hsilent) (by rw [hbuzzer, hst]; exact hs.2)

/-- The invariant speaks of ST, the Buzzer and the events alone. -/
theorem buzzerInv_of_same {s t : State} (hs : BuzzerInv s) (hst : t.st = s.st) (hbuzzer : t.buzzer = s.buzzer)
    (hevents : t.events = s.events) : BuzzerInv t :=
  buzzerInv_of_silent hs hst hbuzzer (hevents.trans (List.append_nil _).symm) rfl

/-! ### What the agents do to the Buzzer (R232 to R235) -/

/-- A set takes the Buzzer, on exactly when ST > 0, to the condition that fits the new value, and its call is one R235 allows. -/
theorem buzzer_of_timerSet (old v : Byte) :
    buzzerTrace (decide (0 < old.toNat)) (notificationEvents (timerSet old v).2) = some (decide (0 < v.toNat)) ∧
    buzzerAfter (decide (0 < old.toNat)) (timerSet old v).2 = decide (0 < v.toNat) := by
  rcases Nat.eq_zero_or_pos old.toNat with hold | hold <;> rcases Nat.eq_zero_or_pos v.toNat with hv | hv
  · simp [timerSet_silent (iff_of_true hold hv), hold, hv, notificationEvents, buzzerTrace, buzzerAfter]
  · simp [timerSet_starts hold hv, hold, hv, notificationEvents, buzzerTrace, buzzerAfter]
  · simp [timerSet_stops hold hv, hold, hv, notificationEvents, buzzerTrace, buzzerAfter]
  · simp [timerSet_silent (iff_of_false hold.ne' hv.ne'), hold, hv, notificationEvents, buzzerTrace, buzzerAfter]

theorem buzzerInv_stSet {s : State} (hs : BuzzerInv s) (v : Byte) : BuzzerInv (s.stSet v) := by
  have hbuzzer : s.buzzer = decide (0 < s.st.toNat) := Bool.eq_iff_iff.2 (hs.2.trans decide_eq_true_iff.symm)
  obtain ⟨htrace, hafter⟩ := buzzer_of_timerSet s.st v
  rw [← hbuzzer] at htrace hafter
  rw [← hafter] at htrace
  refine buzzerInv_of_trace hs rfl htrace ?_
  rw [stSet_buzzer, hafter]
  exact decide_eq_true_iff

/-- Fx18 sets ST, 00E0 and Dxyn record events of the Display, and the other instructions write neither ST, the Buzzer nor the events. -/
theorem exec_keeps_buzzerInv {i : Instr} {s t : State} (hs : BuzzerInv s) (h : exec i s = .next t) : BuzzerInv t := by
  cases i with
  | ldSTVx x =>
    cases h
    exact buzzerInv_of_same (buzzerInv_stSet hs (s.reg x)) rfl rfl rfl
  | cls =>
    cases h
    exact buzzerInv_of_silent hs rfl rfl rfl rfl
  | drw =>
    obtain ⟨_, rfl⟩ | ⟨_, rfl⟩ := (checkRange_cases ..).1 h
    · exact buzzerInv_of_silent hs rfl rfl rfl rfl
    · exact buzzerInv_of_same hs rfl rfl rfl
  | _ =>
    exact buzzerInv_of_same hs (exec_keeps_part (p := .soundTimer) h nofun) (exec_keeps_part (p := .buzzer) h nofun)
      (exec_keeps_part (p := .events) h (by simp [Part.WrittenBy]))

theorem cycle_keeps_buzzerInv {s t : State} (hs : BuzzerInv s) (h : cycle s = .next t) : BuzzerInv t := by
  obtain rfl | ⟨r, rfl⟩ | ⟨code, info, rfl⟩ | ⟨i, hi⟩ := cycle_next h
  · exact hs
  · exact buzzerInv_of_same hs rfl rfl rfl
  · exact buzzerInv_of_same hs rfl rfl rfl
  · exact exec_keeps_buzzerInv hs hi

/-- `INIT` leaves ST at 0, the Buzzer off and no event (R261). -/
theorem buzzerInv_boot (s : State) (f : Font) (rom : List Byte) : BuzzerInv (s.boot f rom) :=
  ⟨rfl, iff_of_false nofun (Nat.lt_irrefl 0)⟩

/-- Settles O56: Fx18 and the tick of ST are sets of ST, which keep it by `buzzer_of_timerSet`; no other agent calls the Buzzer; and
`INIT` starts anew. -/
theorem stepKeepsBuzzerAlternation : Obligations.StepKeepsBuzzerAlternation := by
  intro s t hs h
  have hs' : BuzzerInv s.turnTaken := buzzerInv_of_same hs rfl rfl rfl
  rcases step_cases h with ⟨_, hc⟩ | ⟨_, rfl⟩ | ⟨_, rfl⟩ | ⟨_, _, rfl⟩ | ⟨_, _, rfl⟩ | ⟨_, _, rfl⟩ | ⟨_, rfl⟩ | ⟨f, rom, _, _, rfl⟩
  case inl => exact cycle_keeps_buzzerInv hs' hc
  on_goal 2 =>
    rw [stTick_eq_stSet]
    exact buzzerInv_stSet hs' _
  on_goal 6 => exact buzzerInv_boot _ f rom
  all_goals exact buzzerInv_of_same hs rfl rfl rfl

end Sys2Proof.Machine
end

section
/-! PROOFS. Runs: k ticks of ST in a row, and a run that goes on has the turn of each agent again and again, since every step takes its
turn off the plan and every plan that ends is followed by a fair round (O11). -/

namespace Sys2Proof.Machine

/-! ### Ticks of ST in a row (R232) -/

theorem toNat_iterate_stTick_st (k : Nat) (s : State) : (State.stTick^[k] s).st.toNat = s.st.toNat - k := by
  induction k generalizing s with
  | zero => rfl
  | succ k ih =>
    rw [Function.iterate_succ_apply, ih, stTick_st, toNat_timerTick]
    omega

theorem iterate_stTick_pc (k : Nat) (s : State) : (State.stTick^[k] s).pc = s.pc := by
  induction k generalizing s with
  | zero => rfl
  | succ k ih => rw [Function.iterate_succ_apply, ih, stTick_pc]

/-- Of k ticks one stops the Buzzer exactly where ST is from 1 to k: either the first does, or ST was 0 or is still above 0 after it, and
the k - 1 that follow decide. -/
theorem iterate_stTick_notice (k : Nat) (s : State) :
    (State.stTick^[k] s).events = s.events ++ (if 0 < s.st.toNat ∧ s.st.toNat ≤ k then [.buzzerStop] else []) ∧
    (State.stTick^[k] s).buzzer = if 0 < s.st.toNat ∧ s.st.toNat ≤ k then false else s.buzzer := by
  induction k generalizing s with
  | zero =>
    have hnone : ¬ (0 < s.st.toNat ∧ s.st.toNat ≤ 0) := by omega
    rw [if_neg hnone, if_neg hnone]
    exact ⟨(List.append_nil _).symm, rfl⟩
  | succ k ih =>
    obtain ⟨hevents, hbuzzer⟩ := ih s.stTick
    rw [Function.iterate_succ_apply, hevents, hbuzzer, stTick_events_eq, stTick_buzzer_eq, stTick_st, toNat_timerTick]
    by_cases hstop : s.st.toNat = 1
    · simp [hstop]
    · have hlater : (0 < s.st.toNat - 1 ∧ s.st.toNat - 1 ≤ k) ↔ (0 < s.st.toNat ∧ s.st.toNat ≤ k + 1) := by omega
      simp only [hstop, hlater, if_false, List.append_nil, and_self]

theorem frame_iterate_stTick (k : Nat) (s : State) : Frame noReg noByte [.soundTimer, .buzzer, .events] s (State.stTick^[k] s) := by
  induction k generalizing s with
  | zero => exact frame_refl _ _ _ s
  | succ k ih => exact (frame_stTick s).trans (ih s.stTick)

/-- A given tick of ST is taken off the agenda. -/
theorem step_tickST {s : State} {as : List Turn} (h : s.agenda = .tickST :: as) :
    step s = .next (State.stTick { s with agenda := as }) := by
  rw [step_eq, nextTurn_cons h, turnTaken_cons h, takeTurn]

theorem run_ticks (k : Nat) {s : State} {rest : List Turn} (h : s.agenda = List.replicate k .tickST ++ rest) :
    Sys2Proof.core.run k s = .next (State.stTick^[k] { s with agenda := rest }) := by
  induction k generalizing s with
  | zero =>
    obtain rfl : s.agenda = rest := h
    rfl
  | succ k ih => exact (run_succ (step_tickST h)).trans (ih rfl)

/-- A frame that lets more parts change says less. -/
theorem Frame.mono {regs : Reg → Prop} {bytes : Nat → Prop} {parts parts' : List Part} {s t : State}
    (h : Frame regs bytes parts s t) (hparts : ∀ p ∈ parts, p ∈ parts') : Frame regs bytes parts' s t := by
  obtain ⟨hreg, hbyte, hpart⟩ := h
  exact ⟨hreg, hbyte, fun p hp => hpart p fun hmem => hp (hparts p hmem)⟩

theorem frame_agenda (s : State) (as : List Turn) : Frame noReg noByte [.agenda] s { s with agenda := as } :=
  frame_of_only_part rfl rfl fun p hp => by cases p <;> simp_all [Part.same]

/-! ### Runs that go on (R236, R239) -/

theorem step_of_run_succ {k : Nat} {s t : State} (h : Sys2Proof.core.run (k + 1) s = .next t) :
    ∃ u, step s = .next u ∧ Sys2Proof.core.run k u = .next t := by
  cases hstep : step s with
  | next u => exact ⟨u, rfl, run_succ hstep ▸ h⟩
  | fault r | refused r => simp [Host.Core.run, Sys2Proof.core, hstep] at h

/-- A run is its first part, then the rest of it from what that answers. -/
theorem run_add {m k : Nat} {s t : State} (h : Sys2Proof.core.run m s = .next t) :
    Sys2Proof.core.run (m + k) s = Sys2Proof.core.run k t := by
  induction m generalizing s with
  | zero =>
    cases h
    rw [Nat.zero_add]
  | succ m ih =>
    obtain ⟨u, hstep, hrest⟩ := step_of_run_succ h
    rw [Nat.add_right_comm, run_succ hstep, ih hrest]

/-- The run from here answers a next state however long it is. -/
def GoesOn (s : State) : Prop := ∀ k, ∃ t, Sys2Proof.core.run k s = .next t

/-- The run from here comes to a state with the property. -/
def Reaches (s : State) (p : State → Prop) : Prop := ∃ k t, Sys2Proof.core.run k s = .next t ∧ p t

theorem GoesOn.after {m : Nat} {s t : State} (hs : GoesOn s) (h : Sys2Proof.core.run m s = .next t) : GoesOn t :=
  fun k => run_add h ▸ hs (m + k)

theorem GoesOn.step {s : State} (hs : GoesOn s) : ∃ t, Machine.step s = .next t ∧ GoesOn t := by
  obtain ⟨t, hrun⟩ := hs 1
  obtain ⟨u, hstep, _⟩ := step_of_run_succ hrun
  exact ⟨u, hstep, hs.after (m := 1) (run_succ hstep)⟩

theorem Reaches.of_step {s t : State} {p : State → Prop} (h : step s = .next t) (ht : Reaches t p) : Reaches s p := by
  obtain ⟨k, u, hrun, hu⟩ := ht
  exact ⟨k + 1, u, (run_succ h).trans hrun, hu⟩

/-! ### Each turn of the plan comes -/

theorem cycle_keeps_agenda {s t : State} (h : cycle s = .next t) : t.agenda = s.agenda := by
  obtain rfl | ⟨r, rfl⟩ | ⟨code, info, rfl⟩ | ⟨i, hi⟩ := cycle_next h
  · rfl
  · rfl
  · rfl
  · exact (exec_keeps_part (p := .agenda) hi id).1

/-- Whichever agent steps, `INIT` included, its turn is taken off the plan and nothing else happens to the turns to come. -/
theorem step_agenda {s t : State} (h : step s = .next t) : t.agenda = s.plan.tail := by
  rcases step_cases h with ⟨_, hc⟩ | ⟨_, rfl⟩ | ⟨_, rfl⟩ | ⟨_, _, rfl⟩ | ⟨_, _, rfl⟩ | ⟨_, _, rfl⟩ | ⟨_, rfl⟩ | ⟨_, _, _, _, rfl⟩
  case inl => exact cycle_keeps_agenda hc
  all_goals rfl

/-- A turn of the plan comes, after those that stand before it. -/
theorem reaches_turn_of_mem_plan {a : Turn} {as : List Turn} {s : State} (hs : GoesOn s) (hplan : s.plan = as) (ha : a ∈ as) :
    Reaches s (·.nextTurn = a) := by
  induction as generalizing s with
  | nil => cases ha
  | cons b bs ih =>
    obtain ⟨hb, hbs⟩ : s.nextTurn = b ∧ s.plan.tail = bs := List.cons.inj ((plan_eq s).symm.trans hplan)
    cases ha with
    | head => exact ⟨0, s, rfl, hb⟩
    | tail _ ha =>
      obtain ⟨t, hstep, ht⟩ := hs.step
      have hagenda : t.agenda = bs := (step_agenda hstep).trans hbs
      obtain ⟨c, cs, rfl⟩ := List.exists_cons_of_ne_nil (List.ne_nil_of_mem ha)
      exact .of_step hstep (ih ht (plan_cons hagenda) ha)

/-- The turns given are used up, and then a round is drawn. -/
theorem reaches_empty_agenda {as : List Turn} {s : State} (hs : GoesOn s) (hagenda : s.agenda = as) :
    Reaches s (·.agenda = []) := by
  induction as generalizing s with
  | nil => exact ⟨0, s, rfl, hagenda⟩
  | cons a as ih =>
    obtain ⟨t, hstep, ht⟩ := hs.step
    have htail : t.agenda = as := by rw [step_agenda hstep, plan_cons hagenda, List.tail_cons]
    exact .of_step hstep (ih ht htail)

/-- The turn of each of the three agents comes: at the latest in the first round that is drawn. -/
theorem reaches_agent_turn {a : Turn} {s : State} (hs : GoesOn s) (ha : a ∈ agentTurns) : Reaches s (·.nextTurn = a) := by
  obtain ⟨m, t, hrun, hempty⟩ := reaches_empty_agenda hs rfl
  obtain ⟨k, u, hrun', hturn⟩ := reaches_turn_of_mem_plan (hs.after hrun) (plan_nil hempty) (mem_fairRound _ ha)
  exact ⟨m + k, u, (run_add hrun).trans hrun', hturn⟩

/-- Settles O11: `run_ticks` and what k ticks do to each field; and `reaches_agent_turn` from the state n steps on. -/
theorem soundTimerRunsDown : Obligations.SoundTimerRunsDown := by
  refine ⟨fun k s rest hs => ?_, fun s a ha hs n => ?_⟩
  · have hframe := frame_iterate_stTick k { s with agenda := rest }
    have ⟨_, _, hparts⟩ := hframe
    obtain ⟨hagenda, hrounds⟩ := hparts .agenda (by decide)
    obtain ⟨hevents, hbuzzer⟩ := iterate_stTick_notice k { s with agenda := rest }
    exact ⟨_, run_ticks k hs, toNat_iterate_stTick_st k _, hagenda, hrounds, iterate_stTick_pc k _, hevents, hbuzzer,
      ((frame_agenda s rest).mono (by decide)).trans (hframe.mono (by decide))⟩
  · have ha' : a ∈ agentTurns := by simpa [agentTurns] using ha
    obtain ⟨t, hrun⟩ := hs n
    obtain ⟨k, u, hrun', hturn⟩ := reaches_agent_turn (GoesOn.after hs hrun) ha'
    exact ⟨n + k, u, Nat.le_add_right n k, (run_add hrun).trans hrun', hturn⟩

end Sys2Proof.Machine
end

section
/-! PROOFS. The instructions' own faults (O17): each is the `raise` of its branch, with the information word of R210 as a number. -/

namespace Sys2Proof.Machine

/-- The word `raise` records is the information word as a number. -/
theorem raised_raise_of_toNat (s : State) (code : FaultCode) {w : Word} {info : Nat} (h : w.toNat = info) :
    Raised s (s.raise code w) code info :=
  h ▸ raised_raise s code w

/-- An access of `len` bytes that reaches above 0xFFF takes `MemoryBounds` (R56). -/
theorem checkRange_raises {s : State} {len : Nat} (e : State) (hlen : 0 < len) (hbeyond : 0x1000 < s.i.toNat + len) :
    ∃ t, s.checkRange len e = .next t ∧ Raised s t .memoryBounds (max s.i.toNat 0x1000) := by
  have hbad : s.rangeOk len = false := Bool.eq_false_iff.2 fun hok => by
    have := (rangeOk_iff s len).1 hok
    omega
  exact ⟨_, (checkRange_cases ..).2 (.inr ⟨hbad, rfl⟩), raised_raise_of_toNat s _ (toNat_firstOutside s)⟩

/-- A key number above 15 takes `KeyIndexOutOfRange` (R195). -/
theorem checkKey_raises {s : State} {x : Reg} (e : State) (hkey : 15 < (s.reg x).toNat) :
    ∃ t, s.checkKey x e = .next t ∧ Raised s t .keyIndexOutOfRange (s.reg x).toNat :=
  ⟨_, (checkKey_cases ..).2 (.inr ⟨hkey, rfl⟩), raised_raise_of_toNat s _ (toNat_zext16 _)⟩

theorem exec_ret_raises {s : State} (hempty : s.sp.toNat = 0) :
    ∃ t, exec .ret s = .next t ∧ Raised s t .stackUnderflow 0 := by
  have hsp : s.sp = 0 := BitVec.eq_of_toNat_eq hempty
  exact ⟨_, if_pos hsp, raised_raise_of_toNat s _ ((toNat_zext16 _).trans hempty)⟩

theorem exec_call_raises {s : State} (nnn : Addr) (hfull : s.sp.toNat = 16) :
    ∃ t, exec (.call nnn) s = .next t ∧ Raised s t .stackOverflow 16 := by
  have hsp : s.sp = 16 := BitVec.eq_of_toNat_eq hfull
  exact ⟨_, if_pos hsp, raised_raise_of_toNat s _ ((toNat_zext16 _).trans hfull)⟩

/-- Settles O17: the stack's two faults, and the failed checks of the memory and key instructions. -/
theorem instructionFaultsArePrecise : Obligations.InstructionFaultsArePrecise := fun _ =>
  ⟨exec_ret_raises, exec_call_raises,
    fun _ _ _ hn hbeyond => checkRange_raises _ hn (by omega),
    fun _ hbeyond => checkRange_raises _ (by decide) (by omega),
    fun x hbeyond => ⟨checkRange_raises _ x.val.succ_pos (by omega), checkRange_raises _ x.val.succ_pos (by omega)⟩,
    fun _ hkey => ⟨checkKey_raises _ hkey, checkKey_raises _ hkey⟩⟩

end Sys2Proof.Machine
end

section
/-! PROOFS. `INIT` (70_reset_and_hazards.md): what a boot leaves in memory (O14) and in every register (O15), the boots that fail (O16),
the invariants after a boot (O60); the state after reset is the boot with the default font and the empty ROM (O13, O59). -/

namespace Sys2Proof.Machine

/-! ### Memory (R262) -/

/-- Where no ROM byte stands, memory after a boot is the font, and zeros. -/
theorem boot_byteAt_outside (s : State) (f : Font) {rom : List Byte} {a : Nat} (h : ¬ (0x200 ≤ a ∧ a < 0x200 + rom.length)) :
    (s.boot f rom).byteAt a = fontByte f a :=
  (read_initMemory f rom a).trans (dif_neg h)

theorem boot_byteAt_font (s : State) (f : Font) (rom : List Byte) {g j : Nat} (hg : g < 16) (hj : j < 5) :
    (s.boot f rom).byteAt (5 * g + j) = f[g][j] :=
  (boot_byteAt_outside s f (by omega)).trans (fontByte_glyph f hg hj)

theorem boot_byteAt_rom (s : State) (f : Font) {rom : List Byte} {k : Nat} (hk : k < rom.length) :
    (s.boot f rom).byteAt (0x200 + k) = rom[k] := by
  have hin : 0x200 ≤ 0x200 + k ∧ 0x200 + k < 0x200 + rom.length := by omega
  refine (read_initMemory f rom _).trans ((dif_pos hin).trans ?_)
  simp only [Nat.add_sub_cancel_left]

theorem boot_byteAt_zero (s : State) (f : Font) {rom : List Byte} {a : Nat} (hfont : 0x050 ≤ a)
    (hrom : ¬ (0x200 ≤ a ∧ a < 0x200 + rom.length)) : (s.boot f rom).byteAt a = 0 :=
  (boot_byteAt_outside s f hrom).trans (fontByte_outside f hfont)

/-- Settles O14: a ROM that fits boots, and memory is read region by region. -/
theorem initLoadsFontAndRom : Obligations.InitLoadsFontAndRom := fun s f rom hn hlen =>
  ⟨_, step_init hn hlen, fun _ hg _ hj => boot_byteAt_font _ f rom hg hj,
    fun _ hlow hhigh => boot_byteAt_zero _ f hlow (by omega), fun _ hk => boot_byteAt_rom _ f hk,
    fun _ hlow _ => boot_byteAt_zero _ f (by omega) (by omega)⟩

/-! ### Registers, and the boots that fail (R218, R261, R264) -/

theorem boot_reg (s : State) (f : Font) (rom : List Byte) (r : Reg) : (s.boot f rom).reg r = 0 :=
  Vector.getElem_replicate r.isLt

theorem boot_stack (s : State) (f : Font) (rom : List Byte) {k : Nat} (hk : k < 16) : (s.boot f rom).stack[k] = 0 :=
  Vector.getElem_replicate hk

/-- A boot blanks the reference Display (R185, D20). -/
theorem boot_display_reference {s : State} {g : Grid} (f : Font) (rom : List Byte) (h : s.display = .reference g) :
    (s.boot f rom).display = .reference Grid.blank := by
  rw [State.boot, h, Display.fresh, Display.clear]

/-- Settles O15: the fields of `State.boot`. -/
theorem initResetsEverything : Obligations.InitResetsEverything := fun s f rom hn hlen =>
  ⟨_, step_init hn hlen, boot_reg _ f rom, rfl, rfl, fun _ hk => boot_stack _ f rom hk, rfl, rfl, rfl, rfl, rfl, rfl, rfl,
    fun _ hd => ⟨_, boot_display_reference (s := s.turnTaken) f rom hd, blank_pixel⟩, rfl, rfl, rfl, rfl, rfl, rfl⟩

/-- Settles O16: a ROM too long by its length, a failing source at once. -/
theorem initRefusesBadRoms : Obligations.InitRefusesBadRoms := fun s f =>
  ⟨fun _ hn hlen => step_init_tooLong hn hlen, fun hn => by rw [step_eq, hn, takeTurn, State.init]⟩

/-! ### The invariants after a boot -/

theorem invariants_boot (s : State) (f : Font) {rom : List Byte} (hlen : rom.length ≤ 3584) :
    MemoryInv (s.boot f rom) ∧ ControlInv (s.boot f rom) ∧ BuzzerInv (s.boot f rom) ∧ FaultInv (s.boot f rom) ∧
      WaitKeyInv (s.boot f rom) :=
  ⟨wf_initMemory f hlen, controlInv_boot s f rom, buzzerInv_boot s f rom, runInv_boot s f rom⟩

/-- Settles O60: an `INIT` that answers a next state had a ROM that fits, and that state is the boot's. -/
theorem invariantsHoldAfterInit : Obligations.InvariantsHoldAfterInit := by
  intro s t f rom hn h
  rcases Nat.lt_or_ge 3584 rom.length with hlong | hfits
  · cases (step_init_tooLong hn hlong).symm.trans h
  · cases (step_init hn hfits).symm.trans h
    exact invariants_boot _ f hfits

/-! ### Reset (R260, R261) -/

/-- The default font is what unlisted addresses read as. -/
theorem initMemory_default : initMemory Config.font [] = [] := by
  refine Memory.ext_of_read (wf_initMemory _ (Nat.zero_le _)) Memory.wf_nil fun a => ?_
  have hnone : ¬ (0x200 ≤ a ∧ a < 0x200 + ([] : List Byte).length) := by simp
  exact (read_initMemory _ _ a).trans (dif_neg hnone)

/-- The state after reset is that of a boot with the default font and the empty ROM. -/
theorem reset_eq_boot : State.reset = State.reset.boot Config.font [] := by
  rw [State.boot, initMemory_default]
  rfl

/-- Settles O13: the registers are those of a boot, and so is memory. -/
theorem resetValues : Obligations.ResetValues := by
  unfold Obligations.ResetValues
  rw [reset_eq_boot]
  exact ⟨boot_reg _ _ _, rfl, rfl, fun _ hk => boot_stack _ _ _ hk, rfl, rfl, rfl, rfl, rfl, rfl, rfl,
    fun _ hg _ hj => boot_byteAt_font _ _ _ hg hj, fun _ ha => boot_byteAt_zero _ _ ha (by simp)⟩

/-- Settles O59: reset is a boot. -/
theorem invariantsHoldAtReset : Obligations.InvariantsHoldAtReset := by
  unfold Obligations.InvariantsHoldAtReset
  rw [reset_eq_boot]
  exact invariants_boot _ _ (Nat.zero_le _)

end Sys2Proof.Machine
end
